-- ==== Sys2Proof/Word.lean ====
section
/-! DEFINITION. Sys2Proof/Word.lean: the words of the block (00_scope.md R9, R11). -/

namespace Sys2Proof

/-- One 32-bit register word, `REG_WIDTH` (00_scope.md R9). -/
abbrev Word := BitVec 32

/-- A 32-bit word that holds an IEEE 754 binary32 encoding (00_scope.md R11, 20_memory.md R61). -/
abbrev B32 := BitVec 32

/-- A u64 quantity: a clock value or an interval in microseconds (`TIME_WIDTH`, 00_scope.md R9). -/
abbrev U64 := BitVec 64

/-- One byte lane of the bus (20_memory.md R61). -/
abbrev Byte := BitVec 8

end Sys2Proof
end

