-- ==== Sys2Proof/Config.lean ====
section
/-! DEFINITION. Sys2Proof/Config.lean: the parameters and constants of 00_scope.md R9 and R10, and the values
the spec leaves open, as constants without a body. -/

namespace Sys2Proof

/-- The binary32 operations that can produce a NaN from operands that call for one. -/
inductive FpOp where
  | add | sub | mul | div | fmod
  deriving DecidableEq, Repr

namespace Config

/-- `HAS_OPENLOOP` (R9): true for this hardware. -/
def hasOpenLoop : Bool := true

/-- `ID` (10_state.md R22). -/
def idWord : Word := 0x464F4301#32

/-- Size of the register window in bytes, `ADDR_WIDTH` of 9 bits (R9, 20_memory.md R60). -/
def windowBytes : Nat := 512

/-- `WRAP_THRESHOLD`, 1.6π (R9). UNVERIFIED literal, unsafe, log 10. -/
def wrapThreshold : B32 := 0x40A0D97C#32

/-- `DEADBAND_ANGLE`, 0.03 rad (R9). UNVERIFIED literal, unsafe, log 10. -/
def deadbandAngle : B32 := 0x3CF5C28F#32

/-- `DEADBAND_RATCHET`, 0.01 rad (R9). UNVERIFIED literal, unsafe, log 10. -/
def deadbandRatchet : B32 := 0x3C23D70A#32

/-- `ALIGN_DWELL_US` (R9). UNVERIFIED literal, unsafe, log 10. -/
def alignDwellUs : Nat := 700000

/-- `RPM_TO_RADS`, 2π/60 (R9). PRESUMED by the spec itself, unsafe, log 11. -/
def rpmToRads : B32 := 0x3DD67750#32

/-- `PI32` (R10). -/
def pi32 : B32 := 0x40490FDB#32
/-- `TWO_PI32` (R10). -/
def twoPi32 : B32 := 0x40C90FDB#32
/-- `HALF_PI32` (R10). -/
def halfPi32 : B32 := 0x3FC90FDB#32
/-- `SQRT3_32` (R10). -/
def sqrt3 : B32 := 0x3FDDB3D7#32
/-- `SQRT3_2_32` (R10). -/
def sqrt3Half : B32 := 0x3F5DB3D7#32
/-- `ONE_E6` (R10). -/
def oneE6 : B32 := 0x49742400#32
/-- `HUNDRED` (R10). -/
def hundred : B32 := 0x42C80000#32
/-- `HALF` (R10). -/
def half : B32 := 0x3F000000#32
/-- `ALIGN_ANGLE_RESET`, 3π/2 (R10). -/
def alignAngleReset : B32 := 0x4096CBE4#32

/-- `+0.0` in binary32. -/
def zero : B32 := 0x00000000#32

/-- Microseconds in a second: the divisor of `secs` (R14). -/
def usPerSecond : Nat := 1000000

/-- `SIN32` (R9, OPEN): some total function, nothing more is known. DESIGN CHOICE, safe, log 1. -/
opaque sin32 : B32 → B32

/-- `COS32` (R9, OPEN): some total function, nothing more is known. DESIGN CHOICE, safe, log 1. -/
opaque cos32 : B32 → B32

/-- A free word from which the NaN of an operation on these operands is made
(93_implementation_defined.md item 2: any value among NaNs). DESIGN CHOICE, unsafe, log 2. -/
opaque nanBits : FpOp → B32 → B32 → B32

end Config

end Sys2Proof
end

