-- ==== Sys2Proof/Syntax.lean ====
section
/-! DEFINITION. Sys2Proof/Syntax.lean: the ten commands of the opcode map (30_encoding.md R84), one constructor
per row of spec/opcode_table.json. -/

namespace Sys2Proof

/-- A decoded command word (30_encoding.md R84). Real operands are not in the word: they stand in ARG0 and ARG1
(R83). -/
inductive Instr where
  /-- NOP, 0x00 (43_commands.md R162). -/
  | nop
  /-- TICK, 0x01 (44_tick.md R180). -/
  | tick
  /-- OL_TICK, 0x02 (46_openloop.md R221). -/
  | olTick
  /-- ALIGN, 0x03 (45_align.md R200). -/
  | align
  /-- MODE_VELOCITY, 0x10 (43_commands.md R164). -/
  | modeVelocity
  /-- MODE_ANGLE, 0x11 (43_commands.md R165). -/
  | modeAngle
  /-- MODE_TORQUE, 0x12 (43_commands.md R166). -/
  | modeTorque
  /-- MODE_RATCHET, 0x13, with the step count IMM16 (43_commands.md R167, 30_encoding.md R82). -/
  | modeRatchet (steps : BitVec 16)
  /-- MODE_LIMITPOS, 0x14 (43_commands.md R168). -/
  | modeLimitPos
  /-- SRESET, 0xFF (43_commands.md R163). -/
  | sreset
  deriving DecidableEq, Repr

end Sys2Proof
end

