-- ==== Sys2Proof/WellFormed.lean ====
section
/-! DEFINITION. Sys2Proof/WellFormed.lean: which terms of Instr are commands of a block with or without OpenLoop
(30_encoding.md R85). -/

namespace Sys2Proof

/-- Well-formed on a block whose `HAS_OPENLOOP` is `ol`: MODE_RATCHET has a step count of at least 1 (R82, R85) and
OL_TICK exists only with OpenLoop (R85, 46_openloop.md R220). -/
def Instr.wfWith (ol : Bool) : Instr → Bool
  | .nop => true
  | .tick => true
  | .olTick => ol
  | .align => true
  | .modeVelocity => true
  | .modeAngle => true
  | .modeTorque => true
  | .modeRatchet steps => steps != 0#16
  | .modeLimitPos => true
  | .sreset => true

/-- Well-formed on this hardware. -/
def Instr.wf (i : Instr) : Bool := i.wfWith Config.hasOpenLoop

end Sys2Proof
end

