-- ==== Sys2Proof/Decode.lean ====
section
/-! DEFINITION. Sys2Proof/Decode.lean: the command decoder, total on every 32-bit word and on any bytes
(30_encoding.md R80 to R88), and the encoder (R80, R90). -/

namespace Sys2Proof

/-- Why a word is ILLEGAL (30_encoding.md R85). The block reports all of them with the one code ILLEGAL. -/
inductive DecodeError where
  /-- `RSV ≠ 0`. -/
  | reservedBits
  /-- OPCODE is not in the map (R84, R86). -/
  | unassignedOpcode
  /-- MODE_RATCHET with `IMM16 = 0`. -/
  | zeroSteps
  /-- `IMM16 ≠ 0` on a command other than MODE_RATCHET. -/
  | strayImmediate
  /-- OL_TICK on a block without OpenLoop. -/
  | noOpenLoop
  /-- Not exactly the four bytes of one command word (R87). -/
  | notOneWord
  deriving DecidableEq, Repr

/-- OPCODE, `w[7:0]` (R81). -/
def opcodeOf (w : Word) : BitVec 8 := w.extractLsb' 0 8

/-- RSV, `w[15:8]` (R81). -/
def rsvOf (w : Word) : BitVec 8 := w.extractLsb' 8 8

/-- IMM16, `w[31:16]` (R81). -/
def immOf (w : Word) : BitVec 16 := w.extractLsb' 16 16

/-- A command without an immediate: its IMM16 must be 0 (R85). -/
def noImmediate (imm : BitVec 16) (i : Instr) : Except DecodeError Instr :=
  if imm = 0#16 then .ok i else .error .strayImmediate

/-- The decoder of R88, for a block whose `HAS_OPENLOOP` is `ol`. -/
def decodeWith (ol : Bool) (w : Word) : Except DecodeError Instr :=
  let op := opcodeOf w
  let imm := immOf w
  if rsvOf w ≠ 0#8 then .error .reservedBits
  else if op = 0x13#8 then
    if imm = 0#16 then .error .zeroSteps else .ok (.modeRatchet imm)
  else if op = 0x00#8 then noImmediate imm .nop
  else if op = 0x01#8 then noImmediate imm .tick
  else if op = 0x02#8 then if ol then noImmediate imm .olTick else .error .noOpenLoop
  else if op = 0x03#8 then noImmediate imm .align
  else if op = 0x10#8 then noImmediate imm .modeVelocity
  else if op = 0x11#8 then noImmediate imm .modeAngle
  else if op = 0x12#8 then noImmediate imm .modeTorque
  else if op = 0x14#8 then noImmediate imm .modeLimitPos
  else if op = 0xFF#8 then noImmediate imm .sreset
  else .error .unassignedOpcode

/-- The decoder of this hardware (R88). -/
def decode (w : Word) : Except DecodeError Instr := decodeWith Config.hasOpenLoop w

/-- The word on the bus whose four byte lanes are given, lane 0 first (20_memory.md R61). -/
def wordOfLanes (b0 b1 b2 b3 : Byte) : Word := b3 ++ b2 ++ b1 ++ b0

/-- The decoder on bytes as the bus presents them: exactly one 32-bit word (R87). -/
def decodeBytes : List Byte → Except DecodeError Instr
  | [b0, b1, b2, b3] => decode (wordOfLanes b0 b1 b2 b3)
  | _ => .error .notOneWord

/-- The four byte lanes of a number's low 32 bits, lane 0 first (20_memory.md R61). -/
def lanesOf (w : Nat) : List Byte :=
  [BitVec.ofNat 8 w, BitVec.ofNat 8 (w / 2 ^ 8), BitVec.ofNat 8 (w / 2 ^ 16), BitVec.ofNat 8 (w / 2 ^ 24)]

/-- The instruction the decoder reads from a table word of `nbits` bits, every bit above them 0. -/
def decodeTableWord (nbits w : Nat) : Option Instr :=
  (decodeBytes (lanesOf (w % 2 ^ nbits))).toOption

/-- OPCODE of a command (R84). -/
def Instr.opcode : Instr → BitVec 8
  | .nop => 0x00#8
  | .tick => 0x01#8
  | .olTick => 0x02#8
  | .align => 0x03#8
  | .modeVelocity => 0x10#8
  | .modeAngle => 0x11#8
  | .modeTorque => 0x12#8
  | .modeRatchet _ => 0x13#8
  | .modeLimitPos => 0x14#8
  | .sreset => 0xFF#8

/-- IMM16 of a command: the step count of MODE_RATCHET, 0 for every other (R80, R82). -/
def Instr.imm : Instr → BitVec 16
  | .modeRatchet steps => steps
  | .nop => 0#16
  | .tick => 0#16
  | .olTick => 0#16
  | .align => 0#16
  | .modeVelocity => 0#16
  | .modeAngle => 0#16
  | .modeTorque => 0#16
  | .modeLimitPos => 0#16
  | .sreset => 0#16

/-- The command word `{IMM16, RSV = 0, OPCODE}` (R80, R90). -/
def encode (i : Instr) : Word := i.imm ++ (0#8 ++ i.opcode)

end Sys2Proof
end

