-- ==== Sys2Proof/Machine/Float.lean ====
section
/-! DEFINITION. Sys2Proof/Machine/Float.lean: IEEE 754 binary32 arithmetic, rounded to nearest, ties to even, with
subnormals kept (00_scope.md R10, R11, R12, R14; 20_memory.md R61). Every operation computes its exact result as a
quotient of natural numbers and rounds once. -/

namespace Sys2Proof.Machine.F32

/-- The sign bit, bit 31 (20_memory.md R61). -/
def sign (x : B32) : Bool := x.getLsbD 31

/-- Exponent and fraction together, bits [30:0], as one number. -/
def mag (x : B32) : Nat := x.toNat % 2 ^ 31

/-- The `mag` of an infinity: exponent all ones, fraction 0. -/
def infMag : Nat := 0x7F800000

/-- NaN: exponent all ones, fraction not 0. -/
def isNaN (x : B32) : Bool := decide (infMag < mag x)

/-- ±inf. -/
def isInf (x : B32) : Bool := decide (mag x = infMag)

/-- Neither NaN nor infinite. -/
def isFinite (x : B32) : Bool := decide (mag x < infMag)

/-- ±0.0. -/
def isZero (x : B32) : Bool := decide (mag x = 0)

/-- Where a value that is not a NaN stands in the order of the numbers: the magnitudes of binary32 are ordered as
their bits, and the two zeros share one place. -/
def key (x : B32) : Int := if sign x then -(mag x : Int) else (mag x : Int)

/-- `a < b`, false when either operand is NaN (R12). -/
def lt (a b : B32) : Bool := !isNaN a && !isNaN b && decide (key a < key b)

/-- `a > b` (R12). -/
def gt (a b : B32) : Bool := lt b a

/-- `a >= b`, false when either operand is NaN (R12). -/
def ge (a b : B32) : Bool := !isNaN a && !isNaN b && decide (key b ≤ key a)

/-- `a == b`, false when either operand is NaN, true of `+0.0` and `-0.0` (R12). -/
def eq (a b : B32) : Bool := !isNaN a && !isNaN b && decide (key a = key b)

/-- `-a` flips the sign bit (R12). -/
def neg (x : B32) : B32 := x ^^^ 0x80000000#32

/-- `|a|` clears the sign bit (R12). -/
def abs (x : B32) : B32 := x &&& 0x7FFFFFFF#32

/-- The magnitude of a finite value as a multiple of 2⁻¹⁴⁹, the spacing of the subnormals. -/
def units (x : B32) : Nat :=
  if mag x / 2 ^ 23 = 0 then mag x % 2 ^ 23
  else (2 ^ 23 + mag x % 2 ^ 23) * 2 ^ (mag x / 2 ^ 23 - 1)

/-- A finite value as a signed multiple of 2⁻¹⁴⁹. -/
def sunits (x : B32) : Int := if sign x then -(units x : Int) else (units x : Int)

/-- `n / d` rounded to the nearest natural number, a tie to the even one. -/
def roundDiv (n d : Nat) : Nat :=
  if 2 * (n % d) > d ∨ (2 * (n % d) = d ∧ n / d % 2 = 1) then n / d + 1 else n / d

/-- The `mag` of the binary32 nearest `(n / d) · 2⁻¹⁴⁹`, ties to even, too large a value giving infinity
(`RNE32`, R12). With `k` the number of bits the value has beyond 24, the result's spacing is `2ᵏ` units, and
`k · 2²³` plus the rounded significand is the encoding, subnormals and carries into the exponent included. -/
def roundMag (n d : Nat) : Nat :=
  let k := Nat.log2 (n / d) - 23
  min (k * 2 ^ 23 + roundDiv n (d * 2 ^ k)) infMag

/-- The word with a sign and a `mag`. -/
def pack (s : Bool) (m : Nat) : B32 := BitVec.ofNat 32 (if s then m + 2 ^ 31 else m)

/-- `±inf`. -/
def infinity (s : Bool) : B32 := pack s infMag

/-- `±0.0`. -/
def signedZero (s : Bool) : B32 := pack s 0

/-- A word made into a NaN: unchanged if it is one already, so that every NaN can come out. -/
def toNaN (raw : Word) : B32 :=
  if isNaN raw then raw else raw ||| 0x7FC00000#32

/-- The NaN of an operation, any of the NaNs (93_implementation_defined.md item 2). DESIGN CHOICE, unsafe, log 2. -/
def freeNaN (op : FpOp) (a b : B32) : B32 := toNaN (Config.nanBits op a b)

/-- The exact sum of two finite values, rounded. An exact sum of zero is `-0.0` only for two operands with the sign
set. PRESUMED from IEEE 754, unsafe, log 23. -/
def sumFinite (a b : B32) : B32 :=
  let z := sunits a + sunits b
  if z = 0 then signedZero (sign a && sign b)
  else pack (decide (z < 0)) (roundMag z.natAbs 1)

/-- `a + b` with the NaN the operation gives passed in. -/
def addOr (nan : B32) (a b : B32) : B32 :=
  if isNaN a || isNaN b || (isInf a && isInf b && sign a != sign b) then nan
  else if isInf a then a
  else if isInf b then b
  else sumFinite a b

/-- `a + b` (R12). -/
def add (a b : B32) : B32 := addOr (freeNaN .add a b) a b

/-- `a - b` (R12). -/
def sub (a b : B32) : B32 := addOr (freeNaN .sub a b) a (neg b)

/-- `a * b` (R12). -/
def mul (a b : B32) : B32 :=
  let s := sign a != sign b
  if isNaN a || isNaN b || (isInf a && isZero b) || (isZero a && isInf b) then freeNaN .mul a b
  else if isInf a || isInf b then infinity s
  else pack s (roundMag (units a * units b) (2 ^ 149))

/-- `a / b` (R12). -/
def div (a b : B32) : B32 :=
  let s := sign a != sign b
  if isNaN a || isNaN b || (isInf a && isInf b) || (isZero a && isZero b) then freeNaN .div a b
  else if isInf a || isZero b then infinity s
  else if isInf b then signedZero s
  else pack s (roundMag (units a * 2 ^ 149) (units b))

/-- `fmod(x, y)`: the exact remainder of the truncated quotient, with the sign of `x`; NaN when `x` is infinite or NaN
(R12). For `y` zero or NaN a NaN, for `y` infinite `x`: PRESUMED from IEEE 754, unsafe, log 23. -/
def fmod (x y : B32) : B32 :=
  if isNaN x || isNaN y || isInf x || isZero y then freeNaN .fmod x y
  else if isInf y then x
  else pack (sign x) (roundMag (units x % units y) 1)

/-- `round_half_away(x)` (R12): the nearest integer value, ties away from zero; NaN and infinities unchanged. -/
def roundHalfAway (x : B32) : B32 :=
  if isNaN x || isInf x then x
  else pack (sign x) (roundMag ((units x + 2 ^ 148) / 2 ^ 149 * 2 ^ 149) 1)

/-- `f32(n / d)` of a rational that is not negative, rounded once (R12, R14). -/
def ofRat (n d : Nat) : B32 := pack false (roundMag (n * 2 ^ 149) d)

/-- `f32(n)` of an unsigned integer (R12). -/
def ofNat (n : Nat) : B32 := ofRat n 1

/-- `f32(n)` of a signed integer (R12). -/
def ofInt (n : Int) : B32 := pack (decide (n < 0)) (roundMag (n.natAbs * 2 ^ 149) 1)

/-- `secs(n)`: an interval in microseconds as seconds, rounded once (R14). -/
def secs (n : U64) : B32 := ofRat n.toNat Config.usPerSecond

/-- `clamp(x, lo, hi)`; a NaN `x` is returned unchanged (R12). -/
def clamp (x lo hi : B32) : B32 :=
  if lt x lo then lo else if gt x hi then hi else x

/-- `max(a, b)` (R12). -/
def max2 (a b : B32) : B32 := if gt b a then b else a

/-- `min(a, b)` (R12). -/
def min2 (a b : B32) : B32 := if lt b a then b else a

/-- `max3(a, b, c)` (R12). -/
def max3 (a b c : B32) : B32 := max2 (max2 a b) c

/-- `min3(a, b, c)` (R12). -/
def min3 (a b c : B32) : B32 := min2 (min2 a b) c

end Sys2Proof.Machine.F32
end

