-- ==== Sys2Proof/Machine/State.lean ====
section
/-! DEFINITION. Sys2Proof/Machine/State.lean: the state of the block (10_state.md), the world around it as plain
data (60_exceptions.md R247), and the reset state (70_reset_and_hazards.md R270, R271). -/

namespace Sys2Proof.Machine

/-- The MotionControl variant that MODE encodes (10_state.md R34). -/
inductive Mode where
  | velocity | angle | torque | ratchet | limitPos
  deriving DecidableEq, Repr

/-- The duty channels, in their commit order (00_scope.md R9, 42_transform_pwm.md R149). -/
inductive Phase where
  | a | b | c
  deriving DecidableEq, Repr

/-- The result codes of STATUS.ERR (60_exceptions.md R230). -/
inductive Err where
  | ok | illegal | config | sensor | pwm | numeric | dtZero | clock | alignFail | unimplMode | sensorRange
  deriving DecidableEq, Repr

/-- `st.ALIGN_PHASE` (10_state.md R45). -/
inductive AlignPhase where
  | idle | dwell
  deriving DecidableEq, Repr

/-- The stored fields of STATUS (10_state.md R24). BUSY is not stored: it is read off `st.PENDING` and
`st.ALIGN_PHASE` (R25). -/
structure Status where
  fatal : Bool
  aligned : Bool
  deadband : Bool
  vzdiv : Bool
  wdrop : Bool
  err : Err
  errCh : Phase
  lastOp : BitVec 8
  deriving DecidableEq, Repr

/-- MODE, TARGET and the payloads of the modes (10_state.md R34 to R37). -/
structure Motion where
  mode : Mode
  target : B32
  lpLow : B32
  lpHigh : B32
  rSteps : Word
  rRps : B32
  deriving DecidableEq, Repr

/-- ARG0 and ARG1 (10_state.md R38). -/
structure Args where
  arg0 : B32
  arg1 : B32
  deriving DecidableEq, Repr

/-- The motor configuration (10_state.md R39 to R42). `opt` holds the three writable bits of MOTOR_OPT. -/
structure Motor where
  polePairs : Word
  supplyV : B32
  voltLimit : B32
  velLimit : B32
  kv : B32
  phaseR : B32
  phaseL : B32
  opt : BitVec 3
  alignAngle : B32
  deriving DecidableEq, Repr

/-- One PID register block (10_state.md R43). `opt` holds the two writable bits of OPT. -/
structure Pid where
  kp : B32
  ki : B32
  kd : B32
  limit : B32
  ramp : B32
  opt : BitVec 2
  integ : B32
  prevErr : B32
  prevOut : B32
  deriving DecidableEq, Repr

/-- The Ratchet re-tune gains RT_* (10_state.md R44). -/
structure Retune where
  vkp : B32
  vki : B32
  vkd : B32
  akp : B32
  aki : B32
  akd : B32
  deriving DecidableEq, Repr

/-- The sensor state S_* (10_state.md R46). `rev` is a two's-complement i32. -/
structure Sensor where
  angle : B32
  rev : Word
  vel : B32
  cont : B32
  dt : U64
  t : U64
  deriving DecidableEq, Repr

/-- The duty latch (10_state.md R47). -/
structure Duty where
  a : B32
  b : B32
  c : B32
  deriving DecidableEq, Repr

/-- The drive diagnostics OUT_* (10_state.md R48). -/
structure Drive where
  vq : B32
  vd : B32
  eangle : B32
  deriving DecidableEq, Repr

/-- The OpenLoop state OL_* (10_state.md R49). -/
structure OpenLoop where
  angle : B32
  vel : B32
  t : U64
  deriving DecidableEq, Repr

/-- The state of an ALIGN under way, `st.ALIGN_PHASE`, `st.ALIGN_T0`, `st.ALIGN_EB` (10_state.md R45). -/
structure AlignState where
  phase : AlignPhase
  t0 : U64
  eb : B32
  deriving DecidableEq, Repr

/-- An answer of the angle sensor port (60_exceptions.md R242). -/
inductive SensorAnswer where
  | ok (a : B32)
  | err
  deriving DecidableEq, Repr

/-- What the ports answer during one block step: the clock value, the sensor's answer and, for each duty port,
whether it accepts (60_exceptions.md R241 to R243, R247). -/
structure Ports where
  clock : U64
  sensor : SensorAnswer
  pwmA : Bool
  pwmB : Bool
  pwmC : Bool
  deriving DecidableEq, Repr

/-- One access of the block to a port (20_memory.md R74). -/
inductive PortAccess where
  | clock
  | sensor
  | pwm (ch : Phase) (duty : B32)
  deriving DecidableEq, Repr

/-- What a duty port is known to drive (60_exceptions.md R243): nothing is known from power on or a reset to the first
commit after it (70_reset_and_hazards.md R272), nor after a write it refused. Log 9. -/
inductive PortDrive where
  | unknown
  | duty (p : B32)
  deriving DecidableEq, Repr

/-- What each of the three duty ports is known to drive. -/
structure Outputs where
  a : PortDrive
  b : PortDrive
  c : PortDrive
  deriving DecidableEq, Repr

/-- Nothing is known of what the ports drive (70_reset_and_hazards.md R272). Log 9. -/
def Outputs.unknown : Outputs := { a := .unknown, b := .unknown, c := .unknown }

/-- A point at which the platform fixes SIN32 and COS32 (00_scope.md R9). -/
structure TrigPoint where
  angle : B32
  sin : B32
  cos : B32
  deriving DecidableEq, Repr

/-- The width of a host access (20_memory.md R63). -/
inductive Width where
  | byte | half | word
  deriving DecidableEq, Repr

/-- A host access: its byte address relative to FOC_BASE, its width and, for a write, its word
(20_memory.md R60, R63, R66). -/
inductive HostAccess where
  | read (addr : Word) (width : Width)
  | write (addr : Word) (width : Width) (value : Word)
  deriving DecidableEq, Repr

/-- What the bus answered to the last host access (20_memory.md R62 to R64): nothing yet, the word a read returned,
the completion of a write, or a bus error, which is a fault of the host program. -/
inductive BusResponse where
  | none
  | data (v : Word)
  | written
  | busError
  deriving DecidableEq, Repr

/-- One step of the machine (60_exceptions.md R247): a host access, a block step with the answers its port requests
meet, or the reset input. -/
inductive Event where
  | host (access : HostAccess)
  | block (ports : Ports)
  | reset
  deriving DecidableEq, Repr

/-- The world around the block, as plain data (log 3, 4, 6, 8, 9, 1). No field of it is a register of the spec. -/
structure Env where
  agenda : List Event
  ports : Ports
  portLog : List PortAccess
  outputs : Outputs
  response : BusResponse
  trig : List TrigPoint
  deriving DecidableEq, Repr

/-- The whole machine: the registers and internal state of 10_state.md R20 and R45, and the world around the block. -/
structure State where
  motion : Motion
  args : Args
  motor : Motor
  calOffset : B32
  vpid : Pid
  apid : Pid
  retune : Retune
  sensor : Sensor
  duty : Duty
  drive : Drive
  ol : OpenLoop
  status : Status
  pending : Option Word
  align : AlignState
  env : Env
  deriving DecidableEq, Repr

/-- Why the machine stops. -/
inductive Fault where
  /-- Raised by a host access whose byte address, relative to FOC_BASE, lies outside the 512-byte window: the spec
  gives the block no such address (20_memory.md R60). Safe: the model stops. Log 7. -/
  | outsideWindow (addr : Word)
  deriving DecidableEq, Repr

/-- Why an instruction is refused. -/
inductive Refusal where
  /-- Raised by an arm of exec whose instruction has no meaning yet. Safe: the model stops. No arm raises it. -/
  | notModelled (mnemonic : String)
  deriving DecidableEq, Repr

/-- A PID block at reset (10_state.md R43). -/
def Pid.reset : Pid :=
  { kp := Config.zero, ki := Config.zero, kd := Config.zero, limit := Config.zero, ramp := Config.zero,
    opt := 0#2, integ := Config.zero, prevErr := Config.zero, prevOut := Config.zero }

/-- STATUS at reset: the word 0 (10_state.md R24, 70_reset_and_hazards.md R270). -/
def Status.reset : Status :=
  { fatal := false, aligned := false, deadband := false, vzdiv := false, wdrop := false,
    err := .ok, errCh := .a, lastOp := 0#8 }

/-- The port answers in State before any block step: the model's own, read by no step before a block event writes
them. DESIGN CHOICE, safe, log 4. -/
def Ports.initial : Ports :=
  { clock := 0#64, sensor := .ok Config.zero, pwmA := true, pwmB := true, pwmC := true }

/-- The world at power on: nothing scheduled, nothing accessed, the outputs unknown (70_reset_and_hazards.md R272).
DESIGN CHOICE, log 3, 4, 6, 8, 9. -/
def Env.initial : Env :=
  { agenda := [], ports := Ports.initial, portLog := [],
    outputs := Outputs.unknown, response := .none, trig := [] }

/-- The machine right after reset (70_reset_and_hazards.md R270, R271; reset column of 10_state.md R20). -/
def State.reset : State :=
  { motion := { mode := .torque, target := Config.zero, lpLow := Config.zero, lpHigh := Config.zero,
                rSteps := 0#32, rRps := Config.zero },
    args := { arg0 := Config.zero, arg1 := Config.zero },
    motor := { polePairs := 1#32, supplyV := Config.zero, voltLimit := Config.zero, velLimit := Config.zero,
               kv := Config.zero, phaseR := Config.zero, phaseL := Config.zero, opt := 0#3,
               alignAngle := Config.alignAngleReset },
    calOffset := Config.zero,
    vpid := Pid.reset,
    apid := Pid.reset,
    retune := { vkp := Config.zero, vki := Config.zero, vkd := Config.zero,
                akp := Config.zero, aki := Config.zero, akd := Config.zero },
    sensor := { angle := Config.zero, rev := 0#32, vel := Config.zero, cont := Config.zero, dt := 0#64, t := 0#64 },
    duty := { a := Config.zero, b := Config.zero, c := Config.zero },
    drive := { vq := Config.zero, vd := Config.zero, eangle := Config.zero },
    ol := { angle := Config.zero, vel := Config.zero, t := 0#64 },
    status := Status.reset,
    pending := none,
    align := { phase := .idle, t0 := 0#64, eb := Config.zero },
    env := Env.initial }

end Sys2Proof.Machine
end

