-- ==== Sys2Proof/Machine/Flags.lean ====
section
/-! DEFINITION. Sys2Proof/Machine/Flags.lean: STATUS (10_state.md R24 to R33) and the encodings of MODE and of the
result codes (10_state.md R34, 60_exceptions.md R230). -/

namespace Sys2Proof.Machine

/-- `STATUS.BUSY`: a command is pending or an ALIGN is in its dwell (10_state.md R25). -/
def busy (s : State) : Bool := s.pending.isSome || decide (s.align.phase = .dwell)

/-- The code of a result in `STATUS.ERR` (60_exceptions.md R230). -/
def errCode : Err → BitVec 4
  | .ok => 0#4
  | .illegal => 1#4
  | .config => 2#4
  | .sensor => 3#4
  | .pwm => 4#4
  | .numeric => 5#4
  | .dtZero => 6#4
  | .clock => 7#4
  | .alignFail => 8#4
  | .unimplMode => 9#4
  | .sensorRange => 10#4

/-- The code of a phase in `STATUS.ERR_CH` (10_state.md R24). -/
def phaseCode : Phase → BitVec 2
  | .a => 0#2
  | .b => 1#2
  | .c => 2#2

/-- The word MODE reads as (10_state.md R34). -/
def modeCode : Mode → Word
  | .velocity => 0#32
  | .angle => 1#32
  | .torque => 2#32
  | .ratchet => 3#32
  | .limitPos => 4#32

/-- The word STATUS reads as, most significant field first (10_state.md R24). -/
def statusWord (s : State) : Word :=
  0#8 ++ s.status.lastOp ++ 0#2 ++ phaseCode s.status.errCh ++ errCode s.status.err ++ 0#2 ++
    BitVec.ofBool s.status.wdrop ++ BitVec.ofBool s.status.vzdiv ++ BitVec.ofBool s.status.deadband ++
    BitVec.ofBool s.status.aligned ++ BitVec.ofBool s.status.fatal ++ BitVec.ofBool (busy s)

/-- Writes ERR and, with every write of it, ERR_CH (10_state.md R32). -/
def setResult (e : Err) (ch : Phase) (s : State) : State :=
  { s with status := { s.status with err := e, errCh := ch } }

/-- `STATUS.FATAL <- 1` (10_state.md R26). -/
def setFatal (s : State) : State := { s with status := { s.status with fatal := true } }

/-- `STATUS.ALIGNED <- 1` (10_state.md R27). -/
def setAligned (s : State) : State := { s with status := { s.status with aligned := true } }

/-- `STATUS.DEADBAND <- v` (10_state.md R28). -/
def setDeadband (v : Bool) (s : State) : State := { s with status := { s.status with deadband := v } }

/-- `STATUS.WDROP <- 1` (10_state.md R30). -/
def setWdrop (s : State) : State := { s with status := { s.status with wdrop := true } }

end Sys2Proof.Machine
end

