-- ==== Sys2Proof/Machine/Ops.lean ====
section
/-! DEFINITION. Sys2Proof/Machine/Ops.lean: the operations every command shares: completing, `raise` and `fatal`
(00_scope.md R12), the port accesses, and reset (70_reset_and_hazards.md R270). -/

namespace Sys2Proof.Machine

/-- Where a stretch of a command leaves it: still running, or ended, by a `raise` or by completing early. -/
inductive Flow where
  | go (s : State)
  | ended (s : State)
  deriving DecidableEq, Repr

/-- The state a flow holds. -/
def Flow.state : Flow → State
  | .go s => s
  | .ended s => s

/-- The next stretch of the command, unless it has ended. -/
def Flow.andThen (f : Flow) (k : State → Flow) : Flow :=
  match f with
  | .go s => k s
  | .ended s => .ended s

/-- `STATUS.ERR <- OK`, with ERR_CH 0 (10_state.md R32): the command has completed normally. DEDUCED for the rules
that write ERR alone, log 15. -/
def complete (s : State) : State := setResult .ok .a s

/-- `raise <ERR>`: the block's exception entry. It ends the command with its code; nothing written before is undone
(00_scope.md R12, 60_exceptions.md R231, R236). -/
def raise (e : Err) (s : State) : State := setResult e .a s

/-- `raise PWM(ERR_CH <- ch)` (42_transform_pwm.md R149). -/
def raisePwm (ch : Phase) (s : State) : State := setResult .pwm ch s

/-- `fatal <ERR>`: `raise` that also enters the fatal state (00_scope.md R12, 60_exceptions.md R232). -/
def fatal (e : Err) (s : State) : State := setFatal (raise e s)

/-- One access of the block to a port, in its order (20_memory.md R74). -/
def logPort (p : PortAccess) (s : State) : State :=
  { s with env := { s.env with portLog := s.env.portLog ++ [p] } }

/-- Every register and every piece of internal state to its reset value; no port is written or read, and from here to
the next commit nothing may be assumed of what the outputs drive (70_reset_and_hazards.md R270, R272; log 9). -/
def resetBlock (s : State) : State :=
  { State.reset with env := { s.env with outputs := Outputs.unknown } }

/-- Whether a duty port accepts a write in this block step (60_exceptions.md R243). -/
def Ports.accepts (p : Ports) : Phase → Bool
  | .a => p.pwmA
  | .b => p.pwmB
  | .c => p.pwmC

/-- The duty latch with one phase written (10_state.md R47). -/
def Duty.set (d : Duty) (ch : Phase) (p : B32) : Duty :=
  match ch with
  | .a => { d with a := p }
  | .b => { d with b := p }
  | .c => { d with c := p }

/-- The duty latch of one phase. -/
def Duty.get (d : Duty) : Phase → B32
  | .a => d.a
  | .b => d.b
  | .c => d.c

/-- What the ports drive, with one of them changed. -/
def Outputs.set (o : Outputs) (ch : Phase) (v : PortDrive) : Outputs :=
  match ch with
  | .a => { o with a := v }
  | .b => { o with b := v }
  | .c => { o with c := v }

/-- What one port is known to drive. -/
def Outputs.get (o : Outputs) : Phase → PortDrive
  | .a => o.a
  | .b => o.b
  | .c => o.c

/-- The port accepted the write: it drives the duty, and the latch takes it (42_transform_pwm.md R149,
60_exceptions.md R243). -/
def acceptDuty (ch : Phase) (p : B32) (s : State) : State :=
  { s with duty := s.duty.set ch p, env := { s.env with outputs := s.env.outputs.set ch (.duty p) } }

/-- The port refused the write: nothing is known of what it drives, and the latch keeps its value
(60_exceptions.md R243). Log 9. -/
def loseOutput (ch : Phase) (s : State) : State :=
  { s with env := { s.env with outputs := s.env.outputs.set ch .unknown } }

/-- One `PWM_WRITE(ch, p)` of a commit with what follows from its answer (42_transform_pwm.md R149). -/
def writeDuty (ch : Phase) (p : B32) (s : State) : Flow :=
  let s1 := logPort (.pwm ch p) s
  if s.env.ports.accepts ch then .go (acceptDuty ch p s1) else .ended (raisePwm ch (loseOutput ch s1))

/-- `commit(pA, pB, pC)`: the three duty writes in the order A, B, C, stopping at the first refused one; what is
committed is not rolled back (42_transform_pwm.md R149). -/
def commit (p : Duty) (s : State) : Flow :=
  ((writeDuty .a p.a s).andThen (writeDuty .b p.b)).andThen (writeDuty .c p.c)

end Sys2Proof.Machine
end

