-- ==== Sys2Proof/Machine/Operands.lean ====
section
/-! DEFINITION. Sys2Proof/Machine/Operands.lean: what commands read: the pole-pair count, the presence bits, the
parameters SIN32 and COS32, the sensor's answer and the configuration check. -/

namespace Sys2Proof.Machine

/-- `PP = f32(reg[POLE_PAIRS])` (10_state.md R39). -/
def pp (s : State) : B32 := F32.ofNat s.motor.polePairs.toNat

/-- `MOTOR_OPT.KV_EN`, bit 0 (10_state.md R41). -/
def Motor.kvEn (m : Motor) : Bool := m.opt.getLsbD 0

/-- `MOTOR_OPT.R_EN`, bit 1 (10_state.md R41). -/
def Motor.rEn (m : Motor) : Bool := m.opt.getLsbD 1

/-- `MOTOR_OPT.L_EN`, bit 2 (10_state.md R41). -/
def Motor.lEn (m : Motor) : Bool := m.opt.getLsbD 2

/-- `P.OPT.LIMIT_EN`, bit 0 (10_state.md R43). -/
def Pid.limitEn (p : Pid) : Bool := p.opt.getLsbD 0

/-- `P.OPT.RAMP_EN`, bit 1 (10_state.md R43). -/
def Pid.rampEn (p : Pid) : Bool := p.opt.getLsbD 1

/-- The point at which the platform fixes SIN32 and COS32 for an argument, if there is one. -/
def trigPoint (s : State) (x : B32) : Option TrigPoint := s.env.trig.find? (fun p => p.angle == x)

/-- `SIN32(x)` (00_scope.md R9, OPEN): what the platform's points say, else the free function of Config. Log 1. -/
def sin32 (s : State) (x : B32) : B32 :=
  match trigPoint s x with
  | some p => p.sin
  | none => Config.sin32 x

/-- `COS32(x)` (00_scope.md R9, OPEN): what the platform's points say, else the free function of Config. Log 1. -/
def cos32 (s : State) (x : B32) : B32 :=
  match trigPoint s x with
  | some p => p.cos
  | none => Config.cos32 x

/-- An angle the block accepts: `a >= +0.0` and `a < TWO_PI32` (40_sensor.md R101). -/
def inRange (a : B32) : Bool := F32.ge a Config.zero && F32.lt a Config.twoPi32

/-- The outcome of a sensor read: an accepted angle, or the code the command raises (40_sensor.md R100 to R102). -/
def readSensor (p : Ports) : Except Err B32 :=
  match p.sensor with
  | .err => .error .sensor
  | .ok a => if inRange a then .ok a else .error .sensorRange

/-- Not NaN and `>= +0.0` (43_commands.md R161). -/
def nonNegative (x : B32) : Bool := !F32.isNaN x && F32.ge x Config.zero

/-- The part of CFG_OK about one PID (43_commands.md R161). -/
def Pid.cfgOk (p : Pid) : Bool :=
  (!p.limitEn || nonNegative p.limit) && (!p.rampEn || nonNegative p.ramp)

/-- `CFG_OK` (43_commands.md R161). -/
def cfgOk (s : State) : Bool :=
  F32.isFinite s.motor.supplyV && F32.gt s.motor.supplyV Config.zero &&
    nonNegative s.motor.voltLimit && nonNegative s.motor.velLimit && s.vpid.cfgOk && s.apid.cfgOk

end Sys2Proof.Machine
end

