-- ==== Sys2Proof/Machine/Bus.lean ====
section
/-! DEFINITION. Sys2Proof/Machine/Bus.lean: the register window (10_state.md R20, R21; 20_memory.md), the acceptance of
a command word (43_commands.md R160) and a host access. -/

namespace Sys2Proof.Machine

/-- The fields of a PID register block, in their order (10_state.md R43). -/
inductive PidField where
  | kp | ki | kd | limit | ramp | opt | integ | prevErr | prevOut
  deriving DecidableEq, Repr

/-- The registers of the window (10_state.md R20, R43, R44). -/
inductive Reg where
  | id | cmd | status | mode | target | lpLow | lpHigh | rSteps | rRps | arg0 | arg1
  | polePairs | supplyV | voltLimit | velLimit | kv | phaseR | phaseL | motorOpt | alignAngle | calOffset
  | vpid (f : PidField)
  | apid (f : PidField)
  | rtVkp | rtVki | rtVkd | rtAkp | rtAki | rtAkd
  | sAngle | sRev | sVel | sCont | sDtLo | sDtHi | sTLo | sTHi
  | dutyA | dutyB | dutyC | outVq | outVd | outEangle
  | olAngle | olVel | olTLo | olTHi
  deriving DecidableEq, Repr

/-- Access rights (10_state.md R20). -/
inductive Access where
  | rw | ro | wo
  deriving DecidableEq, Repr

/-- The offset of a field in its PID block (10_state.md R43). -/
def PidField.offset : PidField → Nat
  | .kp => 0x00 | .ki => 0x04 | .kd => 0x08 | .limit => 0x0C | .ramp => 0x10
  | .opt => 0x14 | .integ => 0x18 | .prevErr => 0x1C | .prevOut => 0x20

/-- The byte offset of a register (10_state.md R20, R43, R44). -/
def Reg.offset : Reg → Nat
  | .id => 0x000 | .cmd => 0x004 | .status => 0x008 | .mode => 0x00C
  | .target => 0x010 | .lpLow => 0x014 | .lpHigh => 0x018 | .rSteps => 0x01C | .rRps => 0x020
  | .arg0 => 0x024 | .arg1 => 0x028
  | .polePairs => 0x030 | .supplyV => 0x034 | .voltLimit => 0x038 | .velLimit => 0x03C
  | .kv => 0x040 | .phaseR => 0x044 | .phaseL => 0x048 | .motorOpt => 0x04C
  | .alignAngle => 0x050 | .calOffset => 0x054
  | .vpid f => 0x060 + f.offset
  | .apid f => 0x0A0 + f.offset
  | .rtVkp => 0x0E0 | .rtVki => 0x0E4 | .rtVkd => 0x0E8
  | .rtAkp => 0x0EC | .rtAki => 0x0F0 | .rtAkd => 0x0F4
  | .sAngle => 0x100 | .sRev => 0x104 | .sVel => 0x108 | .sCont => 0x10C
  | .sDtLo => 0x110 | .sDtHi => 0x114 | .sTLo => 0x118 | .sTHi => 0x11C
  | .dutyA => 0x120 | .dutyB => 0x124 | .dutyC => 0x128
  | .outVq => 0x130 | .outVd => 0x134 | .outEangle => 0x138
  | .olAngle => 0x140 | .olVel => 0x144 | .olTLo => 0x148 | .olTHi => 0x14C

/-- The access right of a PID field (10_state.md R43). -/
def PidField.access : PidField → Access
  | .kp => .rw | .ki => .rw | .kd => .rw | .limit => .rw | .ramp => .rw | .opt => .rw
  | .integ => .ro | .prevErr => .ro | .prevOut => .ro

/-- The access right of a register (10_state.md R20). -/
def Reg.access : Reg → Access
  | .id => .ro | .cmd => .wo | .status => .ro | .mode => .ro
  | .target => .ro | .lpLow => .ro | .lpHigh => .ro | .rSteps => .ro | .rRps => .ro
  | .arg0 => .rw | .arg1 => .rw
  | .polePairs => .rw | .supplyV => .rw | .voltLimit => .rw | .velLimit => .rw
  | .kv => .rw | .phaseR => .rw | .phaseL => .rw | .motorOpt => .rw
  | .alignAngle => .rw | .calOffset => .ro
  | .vpid f => f.access
  | .apid f => f.access
  | .rtVkp => .rw | .rtVki => .rw | .rtVkd => .rw | .rtAkp => .rw | .rtAki => .rw | .rtAkd => .rw
  | .sAngle => .ro | .sRev => .ro | .sVel => .ro | .sCont => .ro
  | .sDtLo => .ro | .sDtHi => .ro | .sTLo => .ro | .sTHi => .ro
  | .dutyA => .ro | .dutyB => .ro | .dutyC => .ro | .outVq => .ro | .outVd => .ro | .outEangle => .ro
  | .olAngle => .rw | .olVel => .rw | .olTLo => .ro | .olTHi => .ro

/-- The fields of a PID block, in the order of their offsets. -/
def PidField.all : List PidField := [.kp, .ki, .kd, .limit, .ramp, .opt, .integ, .prevErr, .prevOut]

/-- The OpenLoop registers, which exist only with `HAS_OPENLOOP` (46_openloop.md R220). -/
def Reg.openLoop : List Reg := [.olAngle, .olVel, .olTLo, .olTHi]

/-- The registers every block has, in the order of the map (10_state.md R20). -/
def Reg.base : List Reg :=
  [.id, .cmd, .status, .mode, .target, .lpLow, .lpHigh, .rSteps, .rRps, .arg0, .arg1] ++
  [.polePairs, .supplyV, .voltLimit, .velLimit, .kv, .phaseR, .phaseL, .motorOpt, .alignAngle, .calOffset] ++
  PidField.all.map Reg.vpid ++ PidField.all.map Reg.apid ++
  [.rtVkp, .rtVki, .rtVkd, .rtAkp, .rtAki, .rtAkd] ++
  [.sAngle, .sRev, .sVel, .sCont, .sDtLo, .sDtHi, .sTLo, .sTHi] ++
  [.dutyA, .dutyB, .dutyC, .outVq, .outVd, .outEangle]

/-- The registers of a block with or without OpenLoop (46_openloop.md R220). -/
def Reg.presentWith (hasOl : Bool) : List Reg := if hasOl then Reg.base ++ Reg.openLoop else Reg.base

/-- The register at a byte offset of the window, `none` where it is reserved (10_state.md R20). -/
def regAtWith (hasOl : Bool) (off : Nat) : Option Reg := (Reg.presentWith hasOl).find? (fun r => r.offset == off)

/-- The register at a byte offset on this hardware. -/
def regAt (off : Nat) : Option Reg := regAtWith Config.hasOpenLoop off

/-- The word a PID field reads as (10_state.md R43). -/
def Pid.read (p : Pid) : PidField → Word
  | .kp => p.kp | .ki => p.ki | .kd => p.kd | .limit => p.limit | .ramp => p.ramp
  | .opt => p.opt.setWidth 32
  | .integ => p.integ | .prevErr => p.prevErr | .prevOut => p.prevOut

/-- The word a register reads as (10_state.md R20 to R49). -/
def readReg (s : State) : Reg → Word
  | .id => Config.idWord
  | .cmd => 0#32
  | .status => statusWord s
  | .mode => modeCode s.motion.mode
  | .target => s.motion.target
  | .lpLow => s.motion.lpLow
  | .lpHigh => s.motion.lpHigh
  | .rSteps => s.motion.rSteps
  | .rRps => s.motion.rRps
  | .arg0 => s.args.arg0
  | .arg1 => s.args.arg1
  | .polePairs => s.motor.polePairs
  | .supplyV => s.motor.supplyV
  | .voltLimit => s.motor.voltLimit
  | .velLimit => s.motor.velLimit
  | .kv => s.motor.kv
  | .phaseR => s.motor.phaseR
  | .phaseL => s.motor.phaseL
  | .motorOpt => s.motor.opt.setWidth 32
  | .alignAngle => s.motor.alignAngle
  | .calOffset => s.calOffset
  | .vpid f => s.vpid.read f
  | .apid f => s.apid.read f
  | .rtVkp => s.retune.vkp
  | .rtVki => s.retune.vki
  | .rtVkd => s.retune.vkd
  | .rtAkp => s.retune.akp
  | .rtAki => s.retune.aki
  | .rtAkd => s.retune.akd
  | .sAngle => s.sensor.angle
  | .sRev => s.sensor.rev
  | .sVel => s.sensor.vel
  | .sCont => s.sensor.cont
  | .sDtLo => s.sensor.dt.extractLsb' 0 32
  | .sDtHi => s.sensor.dt.extractLsb' 32 32
  | .sTLo => s.sensor.t.extractLsb' 0 32
  | .sTHi => s.sensor.t.extractLsb' 32 32
  | .dutyA => s.duty.a
  | .dutyB => s.duty.b
  | .dutyC => s.duty.c
  | .outVq => s.drive.vq
  | .outVd => s.drive.vd
  | .outEangle => s.drive.eangle
  | .olAngle => s.ol.angle
  | .olVel => s.ol.vel
  | .olTLo => s.ol.t.extractLsb' 0 32
  | .olTHi => s.ol.t.extractLsb' 32 32

/-- The word at a byte offset of the window; reserved offsets read 0 (10_state.md R20). -/
def readOffset (s : State) (off : Nat) : Word :=
  match regAt off with
  | some r => readReg s r
  | none => 0#32

/-- A PID block with a writable field stored; OPT keeps its two bits (10_state.md R43). -/
def Pid.store (p : Pid) (v : Word) : PidField → Pid
  | .kp => { p with kp := v }
  | .ki => { p with ki := v }
  | .kd => { p with kd := v }
  | .limit => { p with limit := v }
  | .ramp => { p with ramp := v }
  | .opt => { p with opt := v.setWidth 2 }
  | .integ => p
  | .prevErr => p
  | .prevOut => p

/-- A motor register stored: 0 is no legal POLE_PAIRS and is ignored (10_state.md R39), MOTOR_OPT keeps its three bits
(R41). -/
def Motor.store (m : Motor) (v : Word) : Reg → Motor
  | .polePairs => if v = 0#32 then m else { m with polePairs := v }
  | .supplyV => { m with supplyV := v }
  | .voltLimit => { m with voltLimit := v }
  | .velLimit => { m with velLimit := v }
  | .kv => { m with kv := v }
  | .phaseR => { m with phaseR := v }
  | .phaseL => { m with phaseL := v }
  | .motorOpt => { m with opt := v.setWidth 3 }
  | .alignAngle => { m with alignAngle := v }
  | _ => m

/-- A re-tune gain stored (10_state.md R44). -/
def Retune.store (g : Retune) (v : Word) : Reg → Retune
  | .rtVkp => { g with vkp := v }
  | .rtVki => { g with vki := v }
  | .rtVkd => { g with vkd := v }
  | .rtAkp => { g with akp := v }
  | .rtAki => { g with aki := v }
  | .rtAkd => { g with akd := v }
  | _ => g

/-- An argument register stored (10_state.md R38). -/
def Args.store (a : Args) (v : Word) : Reg → Args
  | .arg0 => { a with arg0 := v }
  | .arg1 => { a with arg1 := v }
  | _ => a

/-- A writable OpenLoop register stored (10_state.md R49). -/
def OpenLoop.store (o : OpenLoop) (v : Word) : Reg → OpenLoop
  | .olAngle => { o with angle := v }
  | .olVel => { o with vel := v }
  | _ => o

/-- An RW register stored, subject to its legal-value rule (10_state.md R21). -/
def storeReg (r : Reg) (v : Word) (s : State) : State :=
  { s with
    args := s.args.store v r,
    motor := s.motor.store v r,
    vpid := match r with
      | .vpid f => s.vpid.store v f
      | _ => s.vpid,
    apid := match r with
      | .apid f => s.apid.store v f
      | _ => s.apid,
    retune := s.retune.store v r,
    ol := s.ol.store v r }

/-- The word of SRESET, the one accepted in the fatal state (43_commands.md R160). -/
def sresetWord : Word := 0x000000FF#32

/-- The acceptance writes: `st.PENDING`, LAST_OP, WDROP (43_commands.md R160). -/
def acceptCommand (w : Word) (s : State) : State :=
  { s with pending := some w,
           status := { s.status with lastOp := w.extractLsb' 0 8, wdrop := false } }

/-- A command word offered to CMD: dropped while BUSY, or while FATAL unless it is SRESET, else accepted
(43_commands.md R160). -/
def offerCommand (w : Word) (s : State) : State :=
  if busy s then setWdrop s
  else if s.status.fatal && w != sresetWord then setWdrop s
  else acceptCommand w s

/-- A host write to a register (10_state.md R21, R23, R30). -/
def writeReg (r : Reg) (v : Word) (s : State) : State :=
  match r.access with
  | .ro => s
  | .wo => offerCommand v s
  | .rw => if busy s then setWdrop s else storeReg r v s

/-- A host write to a byte offset of the window; reserved offsets ignore it (10_state.md R20, R21). -/
def writeOffset (off : Nat) (v : Word) (s : State) : State :=
  match regAt off with
  | some r => writeReg r v s
  | none => s

/-- What the bus answers to the host. -/
def respond (b : BusResponse) (s : State) : State := { s with env := { s.env with response := b } }

/-- An access the bus carries out: 32 bits wide and word aligned (20_memory.md R62, R63). -/
def legalAccess (addr : Word) (width : Width) : Bool := decide (width = .word) && decide (addr.toNat % 4 = 0)

/-- One host access (20_memory.md R60 to R65). A misaligned or narrow access completes with a bus error, a fault of the
host program, and has no effect on the block (R62, R63; DEDUCED, log 6). An address outside the window is none of the
block's (log 7). -/
def hostAccess (a : HostAccess) (s : State) : Host.Outcome State Fault Refusal :=
  match a with
  | .read addr width =>
    if Config.windowBytes ≤ addr.toNat then .fault (.outsideWindow addr)
    else if legalAccess addr width then .next (respond (.data (readOffset s addr.toNat)) s)
    else .next (respond .busError s)
  | .write addr width value =>
    if Config.windowBytes ≤ addr.toNat then .fault (.outsideWindow addr)
    else if legalAccess addr width then .next (respond .written (writeOffset addr.toNat value s))
    else .next (respond .busError s)

end Sys2Proof.Machine
end

