-- ==== Sys2Proof/Machine/SensorUnit.lean ====
section
/-! DEFINITION. Sys2Proof/Machine/SensorUnit.lean: the phase-unwrapper and the electrical angle (40_sensor.md). -/

namespace Sys2Proof.Machine

/-- The revolution counter after a reading that moved by `delta`: adjusted by `-sign(delta)` when `|delta|` exceeds
WRAP_THRESHOLD, modulo 2³² (40_sensor.md R103). -/
def unwrap (delta : B32) (rev : Word) : Word :=
  if F32.gt (F32.abs delta) Config.wrapThreshold then
    if F32.gt delta Config.zero then rev - 1#32 else rev + 1#32
  else rev

/-- The continuous angle `(f32(rev) * TWO_PI32) + angle` (40_sensor.md R103, 10_state.md R50). -/
def continuousAngle (rev : Word) (angle : B32) : B32 :=
  F32.add (F32.mul (F32.ofInt rev.toInt) Config.twoPi32) angle

/-- The velocity estimate: the change of the continuous angle over the PREVIOUS interval, `+0.0` when that is 0
(40_sensor.md R103, R108). -/
def velocityEstimate (cont prevCont : B32) (prevDt : U64) : B32 :=
  if prevDt = 0#64 then Config.zero else F32.div (F32.sub cont prevCont) (F32.secs prevDt)

/-- The sensor state after `record(a, t)` (40_sensor.md R103). -/
def Sensor.record (n : Sensor) (a : B32) (t : U64) : Sensor :=
  let rev := unwrap (F32.sub a n.angle) n.rev
  let cont := continuousAngle rev a
  { angle := a, rev := rev, vel := velocityEstimate cont n.cont n.dt, cont := cont, dt := t - n.t, t := t }

/-- `record(a, t)`: the sensor state and VZDIV (40_sensor.md R103, 10_state.md R29). -/
def record (a : B32) (t : U64) (s : State) : State :=
  { s with sensor := s.sensor.record a t,
           status := { s.status with vzdiv := decide (s.sensor.dt = 0#64) } }

/-- `normalize(x)` (40_sensor.md R104). -/
def normalize (x : B32) : B32 :=
  let r := F32.fmod x Config.twoPi32
  if F32.lt r Config.zero then F32.add r Config.twoPi32 else r

/-- The calibration offset, `+0.0` while not ALIGNED (40_sensor.md R105, 10_state.md R27). -/
def calibrationOffset (s : State) : B32 := if s.status.aligned then s.calOffset else Config.zero

/-- `electrical_angle()` (40_sensor.md R105). -/
def electricalAngle (s : State) : B32 :=
  normalize (F32.sub (F32.mul s.sensor.angle (pp s)) (calibrationOffset s))

/-- `raw_electrical_angle(a)` (40_sensor.md R106). -/
def rawElectricalAngle (a : B32) (s : State) : B32 := normalize (F32.mul a (pp s))

end Sys2Proof.Machine
end

