-- ==== Sys2Proof/Machine/Transform.lean ====
section
/-! DEFINITION. Sys2Proof/Machine/Transform.lean: the q/d voltage law, the inverse Park and Clarke transforms, the
centering, the duty conversion and DRIVE (42_transform_pwm.md). -/

namespace Sys2Proof.Machine

/-- The back-EMF term (42_transform_pwm.md R141). -/
def bemf (s : State) : B32 :=
  if s.motor.kvEn then
    F32.div (F32.div s.sensor.vel (F32.mul s.motor.kv Config.sqrt3)) Config.rpmToRads
  else Config.zero

/-- `clamp(x, -VL, VL)` with VL = VOLT_LIMIT (42_transform_pwm.md R142). -/
def limitVoltage (x : B32) (s : State) : B32 := F32.clamp x (F32.neg s.motor.voltLimit) s.motor.voltLimit

/-- The q voltage of `calculate_qd(tq)` (42_transform_pwm.md R142). -/
def qVoltage (tq : B32) (s : State) : B32 :=
  limitVoltage (F32.add (if s.motor.rEn then F32.mul tq s.motor.phaseR else tq) (bemf s)) s

/-- The d voltage of `calculate_qd(tq)` (42_transform_pwm.md R142). -/
def dVoltage (tq : B32) (s : State) : B32 :=
  if s.motor.lEn then
    limitVoltage (F32.mul (F32.mul (F32.mul (F32.neg tq) s.sensor.vel) (pp s)) s.motor.phaseL) s
  else Config.zero

/-- `alpha` of the inverse Park transform (42_transform_pwm.md R144). -/
def parkAlpha (sn cs q d : B32) : B32 := F32.sub (F32.mul cs d) (F32.mul sn q)

/-- `beta` of the inverse Park transform (42_transform_pwm.md R144). -/
def parkBeta (sn cs q d : B32) : B32 := F32.add (F32.mul sn d) (F32.mul cs q)

/-- `ub` of the inverse Clarke transform; `ua` is alpha itself (42_transform_pwm.md R145). -/
def clarkeB (alpha beta : B32) : B32 :=
  F32.add (F32.mul (F32.neg Config.half) alpha) (F32.mul Config.sqrt3Half beta)

/-- `uc` of the inverse Clarke transform (42_transform_pwm.md R145). -/
def clarkeC (alpha beta : B32) : B32 :=
  F32.sub (F32.mul (F32.neg Config.half) alpha) (F32.mul Config.sqrt3Half beta)

/-- The common shift of the centering (42_transform_pwm.md R146). -/
def centerShift (ua ub uc supply : B32) : B32 :=
  F32.sub (F32.mul supply Config.half)
    (F32.mul (F32.add (F32.max3 ua ub uc) (F32.min3 ua ub uc)) Config.half)

/-- The three phase voltages from a rotor-frame pair, given the sine and cosine of the angle: inverse Park, inverse
Clarke, centering (42_transform_pwm.md R144 to R146). -/
def phaseVoltages (sn cs q d supply : B32) : B32 × B32 × B32 :=
  let alpha := parkAlpha sn cs q d
  let beta := parkBeta sn cs q d
  let ub := clarkeB alpha beta
  let uc := clarkeC alpha beta
  let shift := centerShift alpha ub uc supply
  (F32.add alpha shift, F32.add ub shift, F32.add uc shift)

/-- The formula of `volt_to_percent(V)` (42_transform_pwm.md R147). -/
def percentFormula (v supply : B32) : B32 :=
  F32.clamp (F32.div (F32.mul v Config.hundred) supply) Config.zero Config.hundred

/-- `volt_to_percent(V)` for a supply voltage: exactly `+0.0` below zero, exactly 100 from the supply on
(42_transform_pwm.md R152 and the corner cases of R147), and the formula of R147 between them. The formula's own
binary32 rounding would miss both bounds by a last place: DEDUCED, unsafe, log 24. -/
def voltToPercent (v supply : B32) : B32 :=
  if F32.lt v Config.zero then Config.zero
  else if F32.ge v supply then Config.hundred
  else percentFormula v supply

/-- The three duty percentages that `DRIVE(q, d, θ)` offers (42_transform_pwm.md R144 to R147). -/
def dutiesFor (q d theta : B32) (s : State) : Duty :=
  let v := phaseVoltages (sin32 s theta) (cos32 s theta) q d s.motor.supplyV
  { a := voltToPercent v.1 s.motor.supplyV,
    b := voltToPercent v.2.1 s.motor.supplyV,
    c := voltToPercent v.2.2 s.motor.supplyV }

/-- Some percentage is a NaN (42_transform_pwm.md R148). -/
def Duty.anyNaN (p : Duty) : Bool := F32.isNaN p.a || F32.isNaN p.b || F32.isNaN p.c

/-- OUT_VQ, OUT_VD and OUT_EANGLE (10_state.md R48). -/
def setDrive (q d theta : B32) (s : State) : State := { s with drive := { vq := q, vd := d, eangle := theta } }

/-- `DRIVE(q, d, θ)` (42_transform_pwm.md R150): the diagnostics always, then NUMERIC before any port write (R148), or
the commit (R149) and `ERR <- OK`. -/
def drive (q d theta : B32) (s : State) : Flow :=
  let p := dutiesFor q d theta s
  let s1 := setDrive q d theta s
  if p.anyNaN then .ended (raise .numeric s1)
  else (commit p s1).andThen (fun s2 => .go (complete s2))

end Sys2Proof.Machine
end

