-- ==== Sys2Proof/Machine/Align.lean ====
section
/-! DEFINITION. Sys2Proof/Machine/Align.lean: ALIGN, the electrical-offset alignment: phase 1, the dwell, phase 2
(45_align.md). -/

namespace Sys2Proof.Machine

/-- `st.ALIGN_T0`, `st.ALIGN_EB` and the dwell entered (45_align.md R203). -/
def enterDwell (t0 : U64) (eb : B32) (s : State) : State :=
  { s with align := { phase := .dwell, t0 := t0, eb := eb } }

/-- `st.ALIGN_PHASE <- IDLE` (45_align.md R205). -/
def leaveDwell (s : State) : State := { s with align := { s.align with phase := .idle } }

/-- The forcing pulse, and the dwell if it is committed (45_align.md R203). -/
def alignPulse (s : State) : State :=
  match drive (F32.mul s.motor.supplyV Config.half) Config.zero s.motor.alignAngle s with
  | .go s1 => enterDwell s.env.ports.clock (rawElectricalAngle s.sensor.angle s) s1
  | .ended s1 => s1

/-- Phase 1 from the sensor read on (45_align.md R201 to R203). -/
def alignSensor (s : State) : State :=
  match readSensor s.env.ports with
  | .error e => raise e s
  | .ok a => alignPulse (record a s.env.ports.clock s)

/-- Phase 1 from the clock check on; `t0 = S_T` is allowed (45_align.md R201). -/
def alignClock (s : State) : State :=
  if s.env.ports.clock < s.sensor.t then raise .clock s else alignSensor (logPort .sensor s)

/-- ALIGN phase 1 (45_align.md R201). -/
def alignPhase1 (s : State) : State :=
  if cfgOk s then alignClock (logPort .clock s) else raise .config s

/-- The dwell has passed: `CLOCK() >= st.ALIGN_T0 + ALIGN_DWELL_US`, compared exactly (45_align.md R204). -/
def dwellPassed (s : State) : Bool :=
  decide (s.align.t0.toNat + Config.alignDwellUs ≤ s.env.ports.clock.toNat)

/-- Alignment success: the offset, ALIGNED, the counter and velocity cleared, S_CONT re-based (45_align.md R207). -/
def alignSucceed (eAfter : B32) (s : State) : State :=
  complete (setAligned { s with
    calOffset := eAfter,
    sensor := { s.sensor with rev := 0#32, vel := Config.zero, cont := continuousAngle 0#32 s.sensor.angle } })

/-- The measurement after the phase-2 record (45_align.md R205 to R207). -/
def alignMeasure (s : State) : State :=
  let eAfter := rawElectricalAngle s.sensor.angle s
  if F32.eq eAfter s.align.eb then fatal .alignFail s else alignSucceed eAfter s

/-- ALIGN phase 2, once the dwell has passed (45_align.md R205). -/
def alignPhase2 (s : State) : State :=
  let s1 := logPort .sensor (leaveDwell (logPort .clock s))
  match readSensor s1.env.ports with
  | .error e => raise e s1
  | .ok a => alignMeasure (record a s1.env.ports.clock s1)

/-- ALIGN as a command: its first block step (45_align.md R200). -/
def execAlign (s : State) : Host.Outcome State Fault Refusal := .next (alignPhase1 s)

end Sys2Proof.Machine
end

