-- ==== Sys2Proof/Machine/Interface.lean ====
section
/-! DEFINITION. Sys2Proof/Machine/Interface.lean: the interface commands NOP and SRESET (43_commands.md R162, R163). -/

namespace Sys2Proof.Machine

/-- NOP: `ERR <- OK`, `ERR_CH <- 0` (43_commands.md R162). -/
def execNop (s : State) : Host.Outcome State Fault Refusal := .next (complete s)

/-- SRESET: the reset of 70_reset_and_hazards.md R270 (43_commands.md R163). -/
def execSreset (s : State) : Host.Outcome State Fault Refusal := .next (resetBlock s)

end Sys2Proof.Machine
end

