-- ==== Sys2Proof/Machine/ModeSelect.lean ====
section
/-! DEFINITION. Sys2Proof/Machine/ModeSelect.lean: the five MODE_* commands (43_commands.md R164 to R168). -/

namespace Sys2Proof.Machine

/-- `reg[MODE] <- m; reg[TARGET] <- v` (43_commands.md R164 to R168). -/
def setModeTarget (m : Mode) (v : B32) (s : State) : State :=
  { s with motion := { s.motion with mode := m, target := v } }

/-- The three gains of a PID replaced, nothing else of it (43_commands.md R167). -/
def Pid.withGains (p : Pid) (kp ki kd : B32) : Pid := { p with kp := kp, ki := ki, kd := kd }

/-- The six RT_* gains copied into the PIDs (43_commands.md R167, 10_state.md R44). -/
def copyGains (s : State) : State :=
  { s with vpid := s.vpid.withGains s.retune.vkp s.retune.vki s.retune.vkd,
           apid := s.apid.withGains s.retune.akp s.retune.aki s.retune.akd }

/-- R_STEPS and R_RPS for a step count (43_commands.md R167, 10_state.md R37). -/
def setGeometry (n : BitVec 16) (s : State) : State :=
  { s with motion := { s.motion with
      rSteps := n.setWidth 32, rRps := F32.div Config.twoPi32 (F32.ofNat n.toNat) } }

/-- LP_LOW and LP_HIGH (43_commands.md R168, 10_state.md R36). -/
def setLimits (lo hi : B32) (s : State) : State :=
  { s with motion := { s.motion with lpLow := lo, lpHigh := hi } }

/-- MODE_VELOCITY (43_commands.md R164). -/
def execModeVelocity (s : State) : Host.Outcome State Fault Refusal :=
  .next (complete (setModeTarget .velocity s.args.arg0 s))

/-- MODE_ANGLE (43_commands.md R165). -/
def execModeAngle (s : State) : Host.Outcome State Fault Refusal :=
  .next (complete (setModeTarget .angle s.args.arg0 s))

/-- MODE_TORQUE (43_commands.md R166). -/
def execModeTorque (s : State) : Host.Outcome State Fault Refusal :=
  .next (complete (setModeTarget .torque s.args.arg0 s))

/-- MODE_RATCHET with a step count (43_commands.md R167). -/
def execModeRatchet (n : BitVec 16) (s : State) : Host.Outcome State Fault Refusal :=
  .next (complete (copyGains (setModeTarget .ratchet Config.zero (setGeometry n s))))

/-- MODE_LIMITPOS (43_commands.md R168). -/
def execModeLimitPos (s : State) : Host.Outcome State Fault Refusal :=
  .next (complete (setModeTarget .limitPos Config.zero (setLimits s.args.arg0 s.args.arg1 s)))

end Sys2Proof.Machine
end

