-- ==== Sys2Proof/Machine/OpenLoopTick.lean ====
section
/-! DEFINITION. Sys2Proof/Machine/OpenLoopTick.lean: OL_TICK, the open-loop integrator (46_openloop.md). -/

namespace Sys2Proof.Machine

/-- The shaft angle integrated over the interval since the last OL_TICK, and its instant (46_openloop.md R221). -/
def OpenLoop.integrate (o : OpenLoop) (t : U64) : OpenLoop :=
  { o with angle := F32.add o.angle (F32.mul o.vel (F32.secs (t - o.t))), t := t }

/-- Step 5 of OL_TICK (46_openloop.md R221). -/
def olIntegrate (t : U64) (s : State) : State := { s with ol := s.ol.integrate t }

/-- Steps 6 and 7 of OL_TICK: half the voltage limit on q at `OL_ANGLE * PP` (46_openloop.md R221). -/
def olDrive (s : State) : State :=
  (drive (F32.mul s.motor.voltLimit Config.half) Config.zero (F32.mul s.ol.angle (pp s)) s).state

/-- OL_TICK from the clock check on; `t = OL_T` is allowed (46_openloop.md R221). -/
def olClock (s : State) : State :=
  if s.env.ports.clock < s.ol.t then raise .clock s else olDrive (olIntegrate s.env.ports.clock s)

/-- OL_TICK (46_openloop.md R221). -/
def olTick (s : State) : State :=
  if cfgOk s then olClock (logPort .clock s) else raise .config s

/-- OL_TICK as a command: one block step (46_openloop.md R221). -/
def execOlTick (s : State) : Host.Outcome State Fault Refusal := .next (olTick s)

end Sys2Proof.Machine
end

