-- ==== Sys2Proof/Machine/PidUnit.lean ====
section
/-! DEFINITION. Sys2Proof/Machine/PidUnit.lean: the PID computation (41_pid.md) and its two instances. -/

namespace Sys2Proof.Machine

/-- `clamp` to `[-P.LIMIT, P.LIMIT]` when `P.OPT.LIMIT_EN = 1`, else no clamp (41_pid.md R122). -/
def Pid.bound (p : Pid) (x : B32) : B32 :=
  if p.limitEn then F32.clamp x (F32.neg p.limit) p.limit else x

/-- The new integral: trapezoidal, with the direct clamp (41_pid.md R121). -/
def Pid.integral (p : Pid) (err dt : B32) : B32 :=
  p.bound (F32.add p.integ (F32.mul (F32.mul (F32.mul p.ki dt) Config.half) (F32.add err p.prevErr)))

/-- `raw`, the bounded sum of the three terms (41_pid.md R121). -/
def Pid.raw (p : Pid) (err dt : B32) : B32 :=
  p.bound (F32.add (F32.add (F32.mul p.kp err) (p.integral err dt))
    (F32.div (F32.mul p.kd (F32.sub err p.prevErr)) dt))

/-- The slew-rate ramp on the way from PREV_OUT to `raw` (41_pid.md R121, R123). -/
def Pid.slew (p : Pid) (raw dt : B32) : B32 :=
  if p.rampEn then
    let rate := F32.div (F32.sub raw p.prevOut) dt
    if F32.gt rate p.ramp then F32.add p.prevOut (F32.mul p.ramp dt)
    else if F32.lt rate (F32.neg p.ramp) then F32.sub p.prevOut (F32.mul p.ramp dt)
    else raw
  else raw

/-- The output of `pid_compute(P, target, measured, dt)` (41_pid.md R121). -/
def Pid.output (p : Pid) (target measured dt : B32) : B32 :=
  p.slew (p.raw (F32.sub target measured) dt) dt

/-- The PID after `pid_compute(P, target, measured, dt)`: INTEG, PREV_ERR and PREV_OUT are written, always all three
(41_pid.md R121). -/
def Pid.advance (p : Pid) (target measured dt : B32) : Pid :=
  { p with integ := p.integral (F32.sub target measured) dt,
           prevErr := F32.sub target measured,
           prevOut := p.output target measured dt }

/-- `pid_compute(VPID, target, measured, dt)`: the output and the state with VPID's state written. -/
def computeVpid (target measured dt : B32) (s : State) : B32 × State :=
  (s.vpid.output target measured dt, { s with vpid := s.vpid.advance target measured dt })

/-- `pid_compute(APID, target, measured, dt)`: the output and the state with APID's state written. -/
def computeApid (target measured dt : B32) (s : State) : B32 × State :=
  (s.apid.output target measured dt, { s with apid := s.apid.advance target measured dt })

end Sys2Proof.Machine
end

