-- ==== Sys2Proof/Machine/Tick.lean ====
section
/-! DEFINITION. Sys2Proof/Machine/Tick.lean: TICK, the closed-loop control step (44_tick.md). -/

namespace Sys2Proof.Machine

/-- What MODE_STEP does (44_tick.md R181): hands on a torque-equivalent target, or ends the command. -/
inductive ModeOutcome where
  | target (tq : B32) (s : State)
  | ended (s : State)
  deriving DecidableEq, Repr

/-- `|reg[TARGET] - reg[S_CONT]| < bound` (44_tick.md R184, R187). -/
def withinDeadband (bound : B32) (s : State) : Bool :=
  F32.lt (F32.abs (F32.sub s.motion.target s.sensor.cont)) bound

/-- The dead-band no-op: DEADBAND and ERR, and the command ends (44_tick.md R184, R187). -/
def deadbandNoOp (s : State) : State := complete (setDeadband true s)

/-- VELOCITY_STEP (44_tick.md R182). -/
def velocityStep (dt : B32) (s : State) : ModeOutcome :=
  .target (computeVpid s.motion.target s.sensor.vel dt s).1 (computeVpid s.motion.target s.sensor.vel dt s).2

/-- The angle PID, what `shape` makes of its output, then the velocity PID, over one `dt` (44_tick.md R183, R187). -/
def cascade (shape : B32 → B32) (dt : B32) (s : State) : ModeOutcome :=
  let r := computeApid s.motion.target s.sensor.cont dt s
  let v := computeVpid (shape r.1) s.sensor.vel dt r.2
  .target v.1 v.2

/-- ANGLE_STEP (44_tick.md R183, R184). -/
def angleStep (dt : B32) (s : State) : ModeOutcome :=
  if withinDeadband Config.deadbandAngle s then .ended (deadbandNoOp s)
  else cascade (fun vsp => vsp) dt s

/-- TORQUE_STEP (44_tick.md R185). -/
def torqueStep (s : State) : ModeOutcome := .target s.motion.target s

/-- The nearest detent to the continuous angle (44_tick.md R186). -/
def detent (cont rps : B32) : B32 := F32.mul (F32.roundHalfAway (F32.div cont rps)) rps

/-- The running target recomputed in place (44_tick.md R186). -/
def retarget (s : State) : State :=
  { s with motion := { s.motion with target := detent s.sensor.cont s.motion.rRps } }

/-- The clamp of the velocity setpoint to VEL_LIMIT (44_tick.md R187). -/
def limitVelocity (velLimit vsp : B32) : B32 := F32.clamp vsp (F32.neg velLimit) velLimit

/-- RATCHET_STEP (44_tick.md R186, R187). -/
def ratchetStep (dt : B32) (s : State) : ModeOutcome :=
  let s1 := retarget s
  if withinDeadband Config.deadbandRatchet s1 then .ended (deadbandNoOp s1)
  else cascade (limitVelocity s1.motor.velLimit) dt s1

/-- LIMITPOS_STEP: fatal (44_tick.md R188). -/
def limitPosStep (s : State) : ModeOutcome := .ended (fatal .unimplMode s)

/-- MODE_STEP, the mode dispatch (44_tick.md R181). -/
def modeStep (dt : B32) (s : State) : ModeOutcome :=
  match s.motion.mode with
  | .velocity => velocityStep dt s
  | .angle => angleStep dt s
  | .torque => torqueStep s
  | .ratchet => ratchetStep dt s
  | .limitPos => limitPosStep s

/-- Steps 9 to 11 of TICK: `DEADBAND <- 0`, calculate_qd, DRIVE (44_tick.md R180). -/
def tickDrive (tq : B32) (s : State) : State :=
  let s1 := setDeadband false s
  (drive (qVoltage tq s1) (dVoltage tq s1) (electricalAngle s1) s1).state

/-- Steps 7 to 11 of TICK, after the record (44_tick.md R180, R189). -/
def tickControl (s : State) : State :=
  match modeStep (F32.secs s.sensor.dt) s with
  | .target tq s1 => tickDrive tq s1
  | .ended s1 => s1

/-- Steps 5 and 6 of TICK on, the sensor port having been asked (44_tick.md R180). -/
def tickSensor (s : State) : State :=
  match readSensor s.env.ports with
  | .error e => raise e s
  | .ok a => tickControl (record a s.env.ports.clock s)

/-- Steps 3 and 4 of TICK on, the clock having been read (44_tick.md R180). -/
def tickClock (s : State) : State :=
  if s.env.ports.clock < s.sensor.t then raise .clock s
  else if s.env.ports.clock = s.sensor.t then raise .dtZero s
  else tickSensor (logPort .sensor s)

/-- TICK (44_tick.md R180). -/
def tick (s : State) : State :=
  if cfgOk s then tickClock (logPort .clock s) else raise .config s

/-- TICK as a command: one block step (44_tick.md R180). -/
def execTick (s : State) : Host.Outcome State Fault Refusal := .next (tick s)

end Sys2Proof.Machine
end

