-- ==== Sys2Proof/Machine/Dispatch.lean ====
section
/-! DEFINITION. Sys2Proof/Machine/Dispatch.lean: one arm per command (43_commands.md R160: "execute c by its rule"). -/

namespace Sys2Proof.Machine

def exec (i : Instr) (s : State) : Host.Outcome State Fault Refusal :=
  match i with
  | .nop => Sys2Proof.Machine.execNop s
  | .tick => Sys2Proof.Machine.execTick s
  | .olTick => Sys2Proof.Machine.execOlTick s
  | .align => Sys2Proof.Machine.execAlign s
  | .modeVelocity => Sys2Proof.Machine.execModeVelocity s
  | .modeAngle => Sys2Proof.Machine.execModeAngle s
  | .modeTorque => Sys2Proof.Machine.execModeTorque s
  | .modeRatchet n => Sys2Proof.Machine.execModeRatchet n s
  | .modeLimitPos => Sys2Proof.Machine.execModeLimitPos s
  | .sreset => Sys2Proof.Machine.execSreset s

end Sys2Proof.Machine
end

