-- ==== Sys2Proof/Machine/Engine.lean ====
section
/-! DEFINITION. Sys2Proof/Machine/Engine.lean: the block step (43_commands.md R160), the reset input, and how the next
event of the agenda is taken (60_exceptions.md R247). -/

namespace Sys2Proof.Machine

/-- An accepted word that decodes to Illegal (43_commands.md R169, 30_encoding.md R85). -/
def completeIllegal (s : State) : State := raise .illegal s

/-- The block step of a pending word: decode it, and execute it or end in ILLEGAL (43_commands.md R160). -/
def runWord (w : Word) (s : State) : Host.Outcome State Fault Refusal :=
  match decode w with
  | .error _ => .next (completeIllegal s)
  | .ok i => exec i s

/-- `st.PENDING <- none` (43_commands.md R160). -/
def takePending (s : State) : State := { s with pending := none }

/-- A block step: phase 2 of an ALIGN whose dwell has passed, or the single step of the pending command. A block event
met where neither is enabled changes nothing (43_commands.md R160, 45_align.md R204; log 14). -/
def blockStep (s : State) : Host.Outcome State Fault Refusal :=
  match s.align.phase with
  | .dwell => .next (if dwellPassed s then alignPhase2 s else s)
  | .idle =>
    match s.pending with
    | none => .next s
    | some w => runWord w (takePending s)

/-- The machine as a step begins: the event taken off the agenda, no port accessed yet (log 3, log 8). -/
def beginStep (rest : List Event) (s : State) : State :=
  { s with env := { s.env with agenda := rest, portLog := [] } }

/-- The answers the ports give during a block step (60_exceptions.md R247). -/
def setPorts (p : Ports) (s : State) : State := { s with env := { s.env with ports := p } }

/-- One event of the agenda (60_exceptions.md R247). -/
def runEvent (e : Event) (s : State) : Host.Outcome State Fault Refusal :=
  match e with
  | .host a => hostAccess a s
  | .block p => blockStep (setPorts p s)
  | .reset => .next (resetBlock s)

/-- The next event of the agenda; with none, the block waits, all state held and no port accessed
(60_exceptions.md R246; log 3). -/
def runAgenda (s : State) : Host.Outcome State Fault Refusal :=
  match s.env.agenda with
  | [] => .next (beginStep [] s)
  | e :: rest => runEvent e (beginStep rest s)

/-- The state whose next step is the block step of the given word: the word pending, no ALIGN in its dwell, and a block
event at the head of the agenda (43_commands.md R160; log 5). -/
def placeCommand (w : Word) (s : State) : State :=
  { s with pending := some w,
           align := { s.align with phase := .idle },
           env := { s.env with agenda := .block s.env.ports :: s.env.agenda } }

end Sys2Proof.Machine
end

