-- ==== Sys2Proof/Machine/Step.lean ====
section
/-! DEFINITION. Sys2Proof/Machine/Step.lean: one step of the machine (60_exceptions.md R247). -/

namespace Sys2Proof.Machine

/-- One step: the next event of the agenda. -/
def step (s : State) : Host.Outcome State Fault Refusal := runAgenda s

/-- `s` with a command word of `nbits` bits where the next step takes its command from (log 5). -/
def State.withFetchWord (s : State) (nbits w : Nat) : State :=
  placeCommand (BitVec.ofNat 32 (w % 2 ^ nbits)) s

end Sys2Proof.Machine
end

