-- ==== Sys2Proof/Safety.lean ====
section
/-! DEFINITION. Sys2Proof/Safety.lean: what counts as a safe state and as a legal duty, when a command is admitted by
its checks or reaches its drive, and what a drive leaves, however it ends, in the terms the statements use. -/

namespace Sys2Proof.Machine

/-- A percentage a duty port may be offered: not NaN, in [0, 100], `-0.0` included (60_exceptions.md R243). -/
def dutyLegal (p : B32) : Prop := F32.ge p Config.zero = true ∧ F32.ge Config.hundred p = true

/-- What every reachable state of the block satisfies. -/
structure SafeState (s : State) : Prop where
  /-- POLE_PAIRS holds a legal value (10_state.md R39). -/
  polePairs_legal : s.motor.polePairs ≠ 0#32
  /-- The continuous angle is revolutions × 2π plus the angle, bit for bit (10_state.md R50). -/
  continuous : s.sensor.cont = continuousAngle s.sensor.rev s.sensor.angle
  /-- The recorded angle is bounded (10_state.md R52). -/
  angle_bounded : inRange s.sensor.angle = true
  /-- R_STEPS is a 16-bit count (10_state.md R37). -/
  steps_bounded : s.motion.rSteps.toNat < 2 ^ 16
  /-- R_RPS belongs to R_STEPS (10_state.md R37, 43_commands.md R167). -/
  geometry : s.motion.rSteps ≠ 0#32 →
    s.motion.rRps = F32.div Config.twoPi32 (F32.ofNat s.motion.rSteps.toNat)
  /-- Ratchet mode has a geometry (43_commands.md R167). -/
  ratchet_steps : s.motion.mode = .ratchet → s.motion.rSteps ≠ 0#32
  /-- TARGET is `+0.0` in LimitPos mode (10_state.md R35). -/
  limitPos_target : s.motion.mode = .limitPos → s.motion.target = Config.zero
  /-- CAL_OFFSET holds `+0.0` until an alignment completes (10_state.md R27, R42). -/
  offset_absent : s.status.aligned = false → s.calOffset = Config.zero
  /-- ERR_CH is 0 when ERR is not PWM (10_state.md R32). -/
  errCh_zero : s.status.err ≠ .pwm → s.status.errCh = .a
  /-- The fatal state keeps its cause, runs nothing and can have nothing but SRESET pending (60_exceptions.md R232). -/
  fatal_locked : s.status.fatal = true →
    (s.status.err = .alignFail ∨ s.status.err = .unimplMode) ∧ s.align.phase = .idle ∧
      (s.pending = none ∨ s.pending = some sresetWord)
  /-- A dwell has no other command pending, follows an OK pulse, and holds what phase 1 measured
  (45_align.md R202, R203, R205). -/
  dwell_held : s.align.phase = .dwell →
    s.pending = none ∧ s.status.err = .ok ∧ s.align.t0 = s.sensor.t ∧
      s.align.eb = rawElectricalAngle s.sensor.angle s
  /-- The duty latch holds legal percentages (10_state.md R47, 60_exceptions.md R243). -/
  latch_a : dutyLegal s.duty.a
  latch_b : dutyLegal s.duty.b
  latch_c : dutyLegal s.duty.c

/-- The checks of steps 1 to 5 of TICK let this angle through (44_tick.md R180). -/
def TickAdmits (a : B32) (s : State) : Prop :=
  cfgOk s = true ∧ s.sensor.t < s.env.ports.clock ∧ s.env.ports.sensor = .ok a ∧ inRange a = true

/-- The checks of ALIGN phase 1 let this angle through (45_align.md R201). -/
def AlignAdmits (a : B32) (s : State) : Prop :=
  cfgOk s = true ∧ s.sensor.t ≤ s.env.ports.clock ∧ s.env.ports.sensor = .ok a ∧ inRange a = true

/-- The checks of OL_TICK let it through (46_openloop.md R221). -/
def OlTickAdmits (s : State) : Prop := cfgOk s = true ∧ s.ol.t ≤ s.env.ports.clock

/-- All three duty ports accept a write. -/
def AllPortsAccept (s : State) : Prop :=
  s.env.ports.pwmA = true ∧ s.env.ports.pwmB = true ∧ s.env.ports.pwmC = true

/-- The state in which a block step with these answers runs: the event taken, no port accessed yet. -/
def atBlockStep (p : Ports) (rest : List Event) (s : State) : State :=
  { s with env := { s.env with agenda := rest, ports := p, portLog := [] } }

/-- The state a host access leaves that changes nothing in the block: the event taken, the bus having answered. -/
def afterAccess (b : BusResponse) (rest : List Event) (s : State) : State :=
  { s with env := { s.env with agenda := rest, portLog := [], response := b } }

/-- The world with some more port accesses logged. -/
def Env.logged (e : Env) (l : List PortAccess) : Env := { e with portLog := e.portLog ++ l }

/-- A command that ends with a code, its port accesses logged, and nothing else changed. -/
def endedWith (e : Err) (ch : Phase) (l : List PortAccess) (s : State) : State :=
  { s with status := { s.status with err := e, errCh := ch }, env := s.env.logged l }

/-- The sensor record of an angle at the step's clock value, with its two port accesses (40_sensor.md R103). -/
def recorded (a : B32) (s : State) : State :=
  { s with
    sensor := s.sensor.record a s.env.ports.clock,
    status := { s.status with vzdiv := decide (s.sensor.dt = 0#64) },
    env := s.env.logged [.clock, .sensor] }

/-- The three duty writes of a commit, in their order (42_transform_pwm.md R149). -/
def commitAccesses (p : Duty) : List PortAccess := [.pwm .a p.a, .pwm .b p.b, .pwm .c p.c]

/-- What a DRIVE that commits all three percentages leaves (42_transform_pwm.md R150). -/
def afterDrive (q d theta : B32) (p : Duty) (s : State) : State :=
  { s with
    drive := { vq := q, vd := d, eangle := theta },
    duty := p,
    status := { s.status with err := .ok, errCh := .a },
    env := { (s.env.logged (commitAccesses p)) with
      outputs := { a := .duty p.a, b := .duty p.b, c := .duty p.c } } }

/-- What a DRIVE with a NaN percentage leaves: the diagnostics and NUMERIC (42_transform_pwm.md R148, R150). -/
def afterNumeric (q d theta : B32) (s : State) : State :=
  { s with
    drive := { vq := q, vd := d, eangle := theta },
    status := { s.status with err := .numeric, errCh := .a } }

/-- What a DRIVE leaves whose duty write of the given phase is the first one refused: the diagnostics, PWM with that
phase, and the latches and outputs of the phases before it; what its own port drives is no longer known
(42_transform_pwm.md R149, R150; 60_exceptions.md R243; log 9). -/
def afterRefusal (q d theta : B32) (p : Duty) (s : State) (ch : Phase) : State :=
  let x := { s with
    drive := { vq := q, vd := d, eangle := theta },
    status := { s.status with err := .pwm, errCh := ch } }
  match ch with
  | .a => { x with
      env := { (s.env.logged [.pwm .a p.a]) with outputs := { s.env.outputs with a := .unknown } } }
  | .b => { x with
      duty := { s.duty with a := p.a },
      env := { (s.env.logged [.pwm .a p.a, .pwm .b p.b]) with
        outputs := { s.env.outputs with a := .duty p.a, b := .unknown } } }
  | .c => { x with
      duty := { s.duty with a := p.a, b := p.b },
      env := { (s.env.logged [.pwm .a p.a, .pwm .b p.b, .pwm .c p.c]) with
        outputs := { a := .duty p.a, b := .duty p.b, c := .unknown } } }

/-- The first phase, in the order A, B, C, whose port refuses a duty write; `none` when all accept. -/
def Ports.firstRefused (p : Ports) : Option Phase :=
  if p.pwmA = false then some .a
  else if p.pwmB = false then some .b
  else if p.pwmC = false then some .c
  else none

/-- How many duty writes a commit makes: up to and including the first refused one (42_transform_pwm.md R149). -/
def dutyWrites (p : Ports) : Nat :=
  match p.firstRefused with
  | some .a => 1
  | some .b => 2
  | some .c => 3
  | none => 3

/-- DEADBAND cleared: step 9 of TICK (44_tick.md R180). -/
def outsideDeadband (s : State) : State := { s with status := { s.status with deadband := false } }

/-- A TICK whose checks let the angle through reaches its DRIVE, with this torque-equivalent target and this state: the
record, DEADBAND 0 and what the mode has written by then, VPID's and APID's states and the Ratchet target among it
(44_tick.md R180 to R187, R189). -/
def TickReachesDrive (a : B32) (s : State) (tq : B32) (r : State) : Prop :=
  let x := recorded a s
  let dt := F32.secs (s.env.ports.clock - s.sensor.t)
  TickAdmits a s ∧
  match s.motion.mode with
  | .torque => tq = s.motion.target ∧ r = outsideDeadband x
  | .velocity =>
    tq = s.vpid.output s.motion.target x.sensor.vel dt ∧
    r = outsideDeadband { x with vpid := s.vpid.advance s.motion.target x.sensor.vel dt }
  | .angle =>
    let vsp := s.apid.output s.motion.target x.sensor.cont dt
    F32.lt (F32.abs (F32.sub s.motion.target x.sensor.cont)) 0x3CF5C28F#32 = false ∧
    tq = s.vpid.output vsp x.sensor.vel dt ∧
    r = outsideDeadband { x with
      apid := s.apid.advance s.motion.target x.sensor.cont dt, vpid := s.vpid.advance vsp x.sensor.vel dt }
  | .ratchet =>
    let target := F32.mul (F32.roundHalfAway (F32.div x.sensor.cont s.motion.rRps)) s.motion.rRps
    let vsp := F32.clamp (s.apid.output target x.sensor.cont dt) (F32.neg s.motor.velLimit) s.motor.velLimit
    F32.lt (F32.abs (F32.sub target x.sensor.cont)) 0x3C23D70A#32 = false ∧
    tq = s.vpid.output vsp x.sensor.vel dt ∧
    r = outsideDeadband { x with
      motion := { s.motion with target := target },
      apid := s.apid.advance target x.sensor.cont dt, vpid := s.vpid.advance vsp x.sensor.vel dt }
  | .limitPos => False

end Sys2Proof.Machine
end

