-- ==== Sys2Proof/Certificates/Slice0/Obligations.lean ====
section
/-! DEFINITION. Sys2Proof/Certificates/Slice0/Obligations.lean: what is claimed of the model, rule by rule. A statement
that gives the whole next state gives its frame with it: every field it does not name is unchanged. The block has no
byte memory: its registers are the whole address space (log 21). -/

open Sys2Proof Sys2Proof.Machine

/-! ### Encoding (30_encoding.md) -/

/-- R80, R88, R90: decoding the word of a well-formed command gives the command back, with and without OpenLoop. -/
def Obligations.DecodeOfEncode : Prop :=
  ∀ (ol : Bool) (i : Instr), i.wfWith ol = true → decodeWith ol (encode i) = .ok i

/-- R86, R87, R88: a word that decodes is the one word of its command, and the command is well-formed. -/
def Obligations.DecodedWordIsItsEncoding : Prop :=
  ∀ (ol : Bool) (w : Word) (i : Instr), decodeWith ol w = .ok i → i.wfWith ol = true ∧ encode i = w

/-- R85: which words are ILLEGAL, and that an accepted one completes with ERR = ILLEGAL and changes nothing else. -/
def Obligations.IllegalWordsAndTheirEffect : Prop :=
  (∀ (ol : Bool) (w : Word), (∃ e, decodeWith ol w = .error e) ↔
    (w.extractLsb' 8 8 ≠ 0#8 ∨
      w.extractLsb' 0 8 ∉ [0x00#8, 0x01#8, 0x02#8, 0x03#8, 0x10#8, 0x11#8, 0x12#8, 0x13#8, 0x14#8, 0xFF#8] ∨
      (w.extractLsb' 0 8 = 0x13#8 ∧ w.extractLsb' 16 16 = 0#16) ∨
      (w.extractLsb' 0 8 ≠ 0x13#8 ∧ w.extractLsb' 16 16 ≠ 0#16) ∨
      (w.extractLsb' 0 8 = 0x02#8 ∧ ol = false))) ∧
  (∀ (p : Ports) (rest : List Event) (w : Word) (e : DecodeError) (s : State),
    s.env.agenda = .block p :: rest → s.align.phase = .idle → s.pending = some w → decode w = .error e →
    step s = .next { (atBlockStep p rest s) with
      pending := none, status := { s.status with err := .illegal, errCh := .a } })

/-- R86: the reserved opcodes are ILLEGAL in every word, and the only word that decodes to NOP is 0. -/
def Obligations.ReservedOpcodesAreIllegal : Prop :=
  (∀ (ol : Bool) (w : Word),
    ((0x04#8 ≤ w.extractLsb' 0 8 ∧ w.extractLsb' 0 8 ≤ 0x0F#8) ∨
      (0x15#8 ≤ w.extractLsb' 0 8 ∧ w.extractLsb' 0 8 ≤ 0xFE#8)) →
    ∃ e, decodeWith ol w = .error e) ∧
  (∀ (ol : Bool) (w : Word), decodeWith ol w = .ok .nop → w = 0#32)

/-- R84, R90: a few words written out from the opcode map decode to their commands; R85, R88: the word 0x00000013 is
refused. That the refusal bears the reason `zeroSteps` is the model's own choice (log 20, DESIGN CHOICE). -/
def Obligations.WordsOfTheOpcodeMapDecode : Prop :=
  decode 0x00000001#32 = .ok .tick ∧ decode 0x00000003#32 = .ok .align ∧
  decode 0x00000011#32 = .ok .modeAngle ∧ decode 0x00040013#32 = .ok (.modeRatchet 4#16) ∧
  decode 0x000000FF#32 = .ok .sreset ∧ decode 0x00000013#32 = .error .zeroSteps

/-! ### The register window (10_state.md, 20_memory.md) -/

/-- R20, R22 to R49: every register stands at its offset, word aligned and inside the window, the offsets without a
register are exactly the reserved ones, and the map row by row: the access right of each offset and what it reads as. -/
def Obligations.RegistersStandAtTheirOffsets : Prop :=
  (∀ r : Reg, regAt r.offset = some r ∧ r.offset % 4 = 0 ∧ r.offset < 0x200) ∧
  (∀ k < 0x80, (regAt (4 * k) = none ↔
    (4 * k = 0x02C ∨ 4 * k = 0x058 ∨ 4 * k = 0x05C ∨ (0x084 ≤ 4 * k ∧ 4 * k ≤ 0x09C) ∨
      (0x0C4 ≤ 4 * k ∧ 4 * k ≤ 0x0DC) ∨ 4 * k = 0x0F8 ∨ 4 * k = 0x0FC ∨ 4 * k = 0x12C ∨ 4 * k = 0x13C ∨
      0x150 ≤ 4 * k))) ∧
  (∀ s : State, ∀ row ∈ ([
      (0x000, .ro, 0x464F4301#32), (0x004, .wo, 0#32), (0x008, .ro, statusWord s),
      (0x00C, .ro, match s.motion.mode with
        | .velocity => 0#32 | .angle => 1#32 | .torque => 2#32 | .ratchet => 3#32 | .limitPos => 4#32),
      (0x010, .ro, s.motion.target), (0x014, .ro, s.motion.lpLow), (0x018, .ro, s.motion.lpHigh),
      (0x01C, .ro, s.motion.rSteps), (0x020, .ro, s.motion.rRps),
      (0x024, .rw, s.args.arg0), (0x028, .rw, s.args.arg1),
      (0x030, .rw, s.motor.polePairs), (0x034, .rw, s.motor.supplyV), (0x038, .rw, s.motor.voltLimit),
      (0x03C, .rw, s.motor.velLimit), (0x040, .rw, s.motor.kv), (0x044, .rw, s.motor.phaseR),
      (0x048, .rw, s.motor.phaseL), (0x04C, .rw, s.motor.opt.setWidth 32), (0x050, .rw, s.motor.alignAngle),
      (0x054, .ro, s.calOffset)] ++
    [(0x060, .rw, s.vpid.kp), (0x064, .rw, s.vpid.ki), (0x068, .rw, s.vpid.kd), (0x06C, .rw, s.vpid.limit),
      (0x070, .rw, s.vpid.ramp), (0x074, .rw, s.vpid.opt.setWidth 32), (0x078, .ro, s.vpid.integ),
      (0x07C, .ro, s.vpid.prevErr), (0x080, .ro, s.vpid.prevOut),
      (0x0A0, .rw, s.apid.kp), (0x0A4, .rw, s.apid.ki), (0x0A8, .rw, s.apid.kd), (0x0AC, .rw, s.apid.limit),
      (0x0B0, .rw, s.apid.ramp), (0x0B4, .rw, s.apid.opt.setWidth 32), (0x0B8, .ro, s.apid.integ),
      (0x0BC, .ro, s.apid.prevErr), (0x0C0, .ro, s.apid.prevOut),
      (0x0E0, .rw, s.retune.vkp), (0x0E4, .rw, s.retune.vki), (0x0E8, .rw, s.retune.vkd),
      (0x0EC, .rw, s.retune.akp), (0x0F0, .rw, s.retune.aki), (0x0F4, .rw, s.retune.akd)] ++
    [(0x100, .ro, s.sensor.angle), (0x104, .ro, s.sensor.rev), (0x108, .ro, s.sensor.vel), (0x10C, .ro, s.sensor.cont),
      (0x110, .ro, s.sensor.dt.extractLsb' 0 32), (0x114, .ro, s.sensor.dt.extractLsb' 32 32),
      (0x118, .ro, s.sensor.t.extractLsb' 0 32), (0x11C, .ro, s.sensor.t.extractLsb' 32 32),
      (0x120, .ro, s.duty.a), (0x124, .ro, s.duty.b), (0x128, .ro, s.duty.c),
      (0x130, .ro, s.drive.vq), (0x134, .ro, s.drive.vd), (0x138, .ro, s.drive.eangle),
      (0x140, .rw, s.ol.angle), (0x144, .rw, s.ol.vel),
      (0x148, .ro, s.ol.t.extractLsb' 0 32), (0x14C, .ro, s.ol.t.extractLsb' 32 32)] : List (Nat × Access × Word)),
    (regAt row.1).map Reg.access = some row.2.1 ∧ readOffset s row.1 = row.2.2)

/-- R22: ID reads its constant in every state, whatever was written to it. -/
def Obligations.IdReadsItsConstant : Prop :=
  ∀ (s : State) (v : Word), readOffset s 0x000 = 0x464F4301#32 ∧ readOffset (writeOffset 0x000 v s) 0x000 = 0x464F4301#32

/-- R24, R25, R230: each field of STATUS stands in its bits, ERR and ERR_CH with the numbers of the spec, BUSY is 1 exactly
when a command is pending or an ALIGN is in its dwell, and the reserved bits are 0. -/
def Obligations.StatusFieldsStandInTheirBits : Prop :=
  ∀ s : State, let w := readOffset s 0x008
    (w.getLsbD 0 = true ↔ (s.pending ≠ none ∨ s.align.phase = .dwell)) ∧
    w.getLsbD 1 = s.status.fatal ∧ w.getLsbD 2 = s.status.aligned ∧ w.getLsbD 3 = s.status.deadband ∧
    w.getLsbD 4 = s.status.vzdiv ∧ w.getLsbD 5 = s.status.wdrop ∧ w.extractLsb' 6 2 = 0#2 ∧
    w.extractLsb' 8 4 = (match s.status.err with
      | .ok => 0#4 | .illegal => 1#4 | .config => 2#4 | .sensor => 3#4 | .pwm => 4#4 | .numeric => 5#4
      | .dtZero => 6#4 | .clock => 7#4 | .alignFail => 8#4 | .unimplMode => 9#4 | .sensorRange => 10#4) ∧
    w.extractLsb' 12 2 = (match s.status.errCh with | .a => 0#2 | .b => 1#2 | .c => 2#2) ∧
    w.extractLsb' 14 2 = 0#2 ∧ w.extractLsb' 16 8 = s.status.lastOp ∧ w.extractLsb' 24 8 = 0#8

/-- R64: a 32-bit aligned read answers the register's word and changes nothing of the block, BUSY or not; read again, it
answers the same. -/
def Obligations.ReadsHaveNoSideEffect : Prop :=
  ∀ (addr : Word) (rest : List Event) (s : State), addr.toNat < 0x200 → addr.toNat % 4 = 0 →
    s.env.agenda = .host (.read addr .word) :: rest →
    step s = .next (afterAccess (.data (readOffset s addr.toNat)) rest s) ∧
    readOffset (afterAccess (.data (readOffset s addr.toNat)) rest s) addr.toNat = readOffset s addr.toNat

/-- R62, R63 (log 6): a misaligned or narrow access inside the window is answered by a bus error and changes nothing of
the block; the model's choice (log 7): an access outside the window stops the run. -/
def Obligations.BusErrorsHaveNoEffect : Prop :=
  ∀ (addr : Word) (width : Width) (v : Word) (rest : List Event) (s : State),
    (s.env.agenda = .host (.read addr width) :: rest ∨ s.env.agenda = .host (.write addr width v) :: rest) →
    (addr.toNat < 0x200 → (addr.toNat % 4 ≠ 0 ∨ width ≠ .word) →
      step s = .next (afterAccess .busError rest s)) ∧
    (0x200 ≤ addr.toNat → step s = .fault (.outsideWindow addr))

/-- R21, R39, R41, R43: an RW register written while not BUSY holds the word, cut to its writable bits, and no other
register, no internal state and nothing else of the world changes; 0 for POLE_PAIRS is the one word not taken. -/
def Obligations.HostWriteChangesOneRegister : Prop :=
  ∀ (r : Reg) (v : Word) (rest : List Event) (s : State), r.access = .rw → busy s = false →
    s.env.agenda = .host (.write (BitVec.ofNat 32 r.offset) .word v) :: rest →
    ∃ t, step s = .next t ∧
      readReg t r = (if r = .polePairs ∧ v = 0#32 then readReg s r
        else if r = .motorOpt then v &&& 7#32
        else if r = .vpid .opt ∨ r = .apid .opt then v &&& 3#32
        else v) ∧
      (∀ k : Reg, k ≠ r → readReg t k = readReg s k) ∧
      t.pending = s.pending ∧ t.align = s.align ∧ t.env = (afterAccess .written rest s).env

/-- R21, R30: a write to an RW register or to CMD while BUSY is dropped with WDROP = 1; a write to an RO register or to a
reserved offset is ignored whatever BUSY is, and sets nothing. The model's reading (log 18, DEDUCED, unsafe): a write of 0
to POLE_PAIRS while BUSY sets WDROP like any other, where R39 alone could be read as setting nothing. -/
def Obligations.DroppedAndIgnoredWrites : Prop :=
  ∀ (off : Nat) (v : Word) (s : State),
    (∀ r, regAt off = some r → r.access ≠ .ro → busy s = true →
      writeOffset off v s = { s with status := { s.status with wdrop := true } }) ∧
    ((regAt off = none ∨ ∃ r, regAt off = some r ∧ r.access = .ro) → writeOffset off v s = s)

/-- R160, R33, R30: a command word is dropped while BUSY, or while FATAL unless it is SRESET, and else accepted, with
PENDING, LAST_OP and WDROP written and nothing else. -/
def Obligations.CommandWordAcceptance : Prop :=
  ∀ (w : Word) (rest : List Event) (s : State), s.env.agenda = .host (.write 0x004#32 .word w) :: rest →
    ((busy s = true ∨ (s.status.fatal = true ∧ w ≠ 0x000000FF#32)) →
      step s = .next { (afterAccess .written rest s) with status := { s.status with wdrop := true } }) ∧
    (busy s = false → (s.status.fatal = true → w = 0x000000FF#32) →
      step s = .next { (afterAccess .written rest s) with
        pending := some w,
        status := { s.status with lastOp := w.extractLsb' 0 8, wdrop := false } })

/-! ### Reset (70_reset_and_hazards.md) -/

/-- R270, R272, R274: the reset input, at any time, and SRESET leave the same reset state and touch no port, and nothing is
known afterwards of what the outputs drive (`unknown` is how the model holds what R272 leaves unspecified, log 9); every
word of the window then reads as the reset column of R20 says, and nothing is pending. -/
def Obligations.ResetInputAndSresetLeaveTheResetState : Prop :=
  (∀ (rest : List Event) (s : State), s.env.agenda = .reset :: rest →
    step s = .next { State.reset with
      env := { s.env with agenda := rest, portLog := [], outputs := { a := .unknown, b := .unknown, c := .unknown } } }) ∧
  (∀ s : State, exec .sreset s = .next { State.reset with
    env := { s.env with outputs := { a := .unknown, b := .unknown, c := .unknown } } }) ∧
  (∀ k < 0x80, readOffset State.reset (4 * k) =
    (if 4 * k = 0x000 then 0x464F4301#32 else if 4 * k = 0x00C then 2#32 else if 4 * k = 0x030 then 1#32
      else if 4 * k = 0x050 then 0x4096CBE4#32 else 0#32)) ∧
  State.reset.pending = none ∧ State.reset.align = { phase := .idle, t0 := 0#64, eb := 0#32 }

/-! ### NOP and the mode commands (43_commands.md) -/

/-- R162: NOP, the word 0, clears ERR and ERR_CH and changes nothing else. -/
def Obligations.NopClearsTheResult : Prop :=
  encode .nop = 0x00000000#32 ∧
  ∀ s : State, exec .nop s = .next { s with status := { s.status with err := .ok, errCh := .a } }

/-- R164, R165, R166, R168: the words of the four; the three modes with one target take ARG0 as it stands, LimitPos takes
ARG0 and ARG1 as its limits with a zero target, and nothing else changes. ERR_CH = 0 is R32 as the model reads it (log 15,
DEDUCED, unsafe): the pseudocode of the four writes ERR alone. -/
def Obligations.ModeCommandsTakeTheirArguments : Prop :=
  (encode .modeVelocity = 0x00000010#32 ∧ encode .modeAngle = 0x00000011#32 ∧ encode .modeTorque = 0x00000012#32 ∧
    encode .modeLimitPos = 0x00000014#32) ∧
  ∀ s : State, let done := { s.status with err := Err.ok, errCh := Phase.a }
    exec .modeVelocity s =
      .next { s with motion := { s.motion with mode := .velocity, target := s.args.arg0 }, status := done } ∧
    exec .modeAngle s =
      .next { s with motion := { s.motion with mode := .angle, target := s.args.arg0 }, status := done } ∧
    exec .modeTorque s =
      .next { s with motion := { s.motion with mode := .torque, target := s.args.arg0 }, status := done } ∧
    exec .modeLimitPos s = .next { s with
      motion := { s.motion with mode := .limitPos, target := 0#32, lpLow := s.args.arg0, lpHigh := s.args.arg1 },
      status := done }

/-- R167: MODE_RATCHET, the word `(n << 16) | 0x13`, writes the geometry of its step count, the zero target and the six
gains, and nothing else of the PIDs. ERR_CH = 0 is R32 as the model reads it (log 15, DEDUCED, unsafe). The meaning is
stated for `n = 0` too, which no word decodes to (R85). -/
def Obligations.RatchetSelectsGeometryAndGains : Prop :=
  ∀ (n : BitVec 16) (s : State), encode (.modeRatchet n) = ((n.setWidth 32 <<< 16) ||| 0x00000013#32) ∧
  exec (.modeRatchet n) s = .next { s with
    motion := { s.motion with
      mode := .ratchet, target := 0#32, rSteps := n.setWidth 32,
      rRps := F32.div 0x40C90FDB#32 (F32.ofNat n.toNat) },
    vpid := { s.vpid with kp := s.retune.vkp, ki := s.retune.vki, kd := s.retune.vkd },
    apid := { s.apid with kp := s.retune.akp, ki := s.retune.aki, kd := s.retune.akd },
    status := { s.status with err := .ok, errCh := .a } }

/-! ### The configuration check and refusals -/

/-- R161: what CFG_OK demands, and that the three commands that drive the outputs end in CONFIG without it, with no
other effect and no port access. ERR_CH = 0 is R32 as the model reads it (log 15, DEDUCED, unsafe). -/
def Obligations.ConfigurationCheck : Prop :=
  ∀ s : State,
    (cfgOk s = true ↔
      (F32.isFinite s.motor.supplyV = true ∧ F32.gt s.motor.supplyV 0#32 = true ∧
        F32.ge s.motor.voltLimit 0#32 = true ∧ F32.ge s.motor.velLimit 0#32 = true ∧
        (∀ P ∈ [s.vpid, s.apid], (P.opt.getLsbD 0 = true → F32.ge P.limit 0#32 = true) ∧
          (P.opt.getLsbD 1 = true → F32.ge P.ramp 0#32 = true)))) ∧
    (cfgOk s = false →
      exec .tick s = .next (endedWith .config .a [] s) ∧
      exec .olTick s = .next (endedWith .config .a [] s) ∧
      exec .align s = .next (endedWith .config .a [] s))

/-- R192, R180, R235: a TICK its checks refuse writes ERR and ERR_CH alone; which code it is, in the order of the
checks, and which ports it asked. -/
def Obligations.RefusedTickWritesOnlyTheResult : Prop :=
  ∀ s : State,
    (cfgOk s = false → exec .tick s = .next (endedWith .config .a [] s)) ∧
    (cfgOk s = true →
      (s.env.ports.clock < s.sensor.t → exec .tick s = .next (endedWith .clock .a [.clock] s)) ∧
      (s.env.ports.clock = s.sensor.t → exec .tick s = .next (endedWith .dtZero .a [.clock] s)) ∧
      (s.sensor.t < s.env.ports.clock →
        (s.env.ports.sensor = .err → exec .tick s = .next (endedWith .sensor .a [.clock, .sensor] s)) ∧
        (∀ a, s.env.ports.sensor = .ok a → inRange a = false →
          exec .tick s = .next (endedWith .sensorRange .a [.clock, .sensor] s))))

/-- R201, R208, R221, R235: an ALIGN that phase 1 refuses, and an OL_TICK whose clock lies below OL_T, write ERR and ERR_CH
alone. -/
def Obligations.RefusedAlignAndOlTickWriteOnlyTheResult : Prop :=
  ∀ s : State, cfgOk s = true →
    (s.env.ports.clock < s.ol.t → exec .olTick s = .next (endedWith .clock .a [.clock] s)) ∧
    (s.env.ports.clock < s.sensor.t → exec .align s = .next (endedWith .clock .a [.clock] s)) ∧
    (s.sensor.t ≤ s.env.ports.clock →
      (s.env.ports.sensor = .err → exec .align s = .next (endedWith .sensor .a [.clock, .sensor] s)) ∧
      (∀ a, s.env.ports.sensor = .ok a → inRange a = false →
        exec .align s = .next (endedWith .sensorRange .a [.clock, .sensor] s)))

/-- R101: which sensor answers are in range: those at least `+0.0` and below TWO_PI32, `-0.0` included, TWO_PI32 and
every NaN excluded. -/
def Obligations.SensorRange : Prop :=
  (∀ a : B32, inRange a = true ↔ (a = 0x80000000#32 ∨ a.toNat < 0x40C90FDB)) ∧
  inRange 0x40C90FDB#32 = false ∧ inRange 0x40C90FDA#32 = true

/-! ### The sensor record and the angles (40_sensor.md) -/

/-- R103, R108: the sensor state and VZDIV after a record; of two records in a row the second divides by the interval of
the first. -/
def Obligations.SensorRecordRule : Prop :=
  (∀ (a : B32) (t : U64) (s : State),
    let delta := F32.sub a s.sensor.angle
    let rev := if F32.gt (F32.abs delta) 0x40A0D97C#32 then
        (if F32.gt delta 0#32 then s.sensor.rev - 1#32 else s.sensor.rev + 1#32) else s.sensor.rev
    let cont := F32.add (F32.mul (F32.ofInt rev.toInt) 0x40C90FDB#32) a
    record a t s = { s with
      sensor := {
        angle := a, rev := rev, cont := cont, dt := t - s.sensor.t, t := t,
        vel := if s.sensor.dt = 0#64 then 0#32
          else F32.div (F32.sub cont s.sensor.cont) (F32.secs s.sensor.dt) },
      status := { s.status with vzdiv := decide (s.sensor.dt = 0#64) } }) ∧
  (∀ (n : Sensor) (a1 a2 : B32) (t1 t2 : U64), t1 ≠ n.t →
    ((n.record a1 t1).record a2 t2).vel =
      F32.div (F32.sub ((n.record a1 t1).record a2 t2).cont (n.record a1 t1).cont) (F32.secs (t1 - n.t)))

/-- R107: from one reading to the next the revolution counter steps by one exactly when the reading moves by more than
WRAP_THRESHOLD, down when it grows and up when it falls. -/
def Obligations.RevolutionCounterStepsOnlyAtWraps : Prop :=
  ∀ (n : Sensor) (a : B32) (t : U64),
    let delta := F32.sub a n.angle
    ((n.record a t).rev = n.rev - 1#32 ↔ F32.gt delta 0x40A0D97C#32 = true) ∧
    ((n.record a t).rev = n.rev + 1#32 ↔ F32.lt delta 0xC0A0D97C#32 = true) ∧
    ((n.record a t).rev = n.rev ↔
      (F32.gt delta 0x40A0D97C#32 = false ∧ F32.lt delta 0xC0A0D97C#32 = false))

/-- R207's remark that `electrical_angle()` at the aligned position is `+0.0`, as the spec derives it: expected to fail
of the binary32 rules R104 and R105 (log 25). -/
def Obligations.AlignedPositionReadsZero : Prop :=
  ∀ s : State, SafeState s → s.status.aligned = true → s.calOffset = rawElectricalAngle s.sensor.angle s →
    electricalAngle s = 0#32

/-! ### The PID (41_pid.md) -/

/-- R121: the output and the state of `pid_compute`, term by term. -/
def Obligations.PidComputeRule : Prop :=
  ∀ (P : Pid) (target measured dt : B32),
    let limited := fun x => if P.opt.getLsbD 0 then F32.clamp x (F32.neg P.limit) P.limit else x
    let err := F32.sub target measured
    let integ := limited (F32.add P.integ
      (F32.mul (F32.mul (F32.mul P.ki dt) 0x3F000000#32) (F32.add err P.prevErr)))
    let raw := limited (F32.add (F32.add (F32.mul P.kp err) integ)
      (F32.div (F32.mul P.kd (F32.sub err P.prevErr)) dt))
    let rate := F32.div (F32.sub raw P.prevOut) dt
    let out := if P.opt.getLsbD 1 then
        (if F32.gt rate P.ramp then F32.add P.prevOut (F32.mul P.ramp dt)
          else if F32.lt rate (F32.neg P.ramp) then F32.sub P.prevOut (F32.mul P.ramp dt) else raw)
      else raw
    P.output target measured dt = out ∧
    P.advance target measured dt = { P with integ := integ, prevErr := err, prevOut := out }

/-- R51: with the limit on and legal, every computation leaves the integral within it, unless it is a NaN. -/
def Obligations.PidIntegralStaysWithinItsLimit : Prop :=
  ∀ (P : Pid) (target measured dt : B32), P.opt.getLsbD 0 = true → F32.ge P.limit 0#32 = true →
    F32.isNaN (P.advance target measured dt).integ = false →
    F32.ge P.limit (F32.abs (P.advance target measured dt).integ) = true

/-- R126: with zero gains, zero error, finite state and no ramp, the output is the stored integral, bounded by the limit
when it is on, and INTEG keeps its value when it lies within. -/
def Obligations.PidZeroGainsReturnTheIntegral : Prop :=
  ∀ (P : Pid) (target measured dt : B32),
    F32.isZero P.kp = true → F32.isZero P.ki = true → F32.isZero P.kd = true → P.opt.getLsbD 1 = false →
    F32.isZero (F32.sub target measured) = true → F32.isFinite P.integ = true → F32.isFinite P.prevErr = true →
    F32.isFinite dt = true → F32.gt dt 0#32 = true →
    (P.opt.getLsbD 0 = false →
      F32.eq (P.output target measured dt) P.integ = true ∧
      F32.eq (P.advance target measured dt).integ P.integ = true) ∧
    (P.opt.getLsbD 0 = true → F32.ge P.limit 0#32 = true →
      F32.eq (P.output target measured dt) (F32.clamp P.integ (F32.neg P.limit) P.limit) = true ∧
      (F32.ge P.limit (F32.abs P.integ) = true → F32.eq (P.advance target measured dt).integ P.integ = true))

/-- R127, the document's Scenario E: with KP = 1 alone, 10 and then 9. -/
def Obligations.PidScenarioE : Prop :=
  let P : Pid := { Pid.reset with kp := 0x3F800000#32 }
  let Q := P.advance 0x41200000#32 0#32 0x3F800000#32
  P.output 0x41200000#32 0#32 0x3F800000#32 = 0x41200000#32 ∧
  Q.output 0x41200000#32 0x3F800000#32 0x3F800000#32 = 0x41100000#32 ∧
  Q.integ = 0#32 ∧ (Q.advance 0x41200000#32 0x3F800000#32 0x3F800000#32).integ = 0#32 ∧
  (Q.advance 0x41200000#32 0x3F800000#32 0x3F800000#32).prevErr = 0x41100000#32

/-! ### The voltage law and the duties (42_transform_pwm.md) -/

/-- R40, R142: with a legal VOLT_LIMIT, q and d lie within it unless they are NaN. -/
def Obligations.VoltLimitBoundsBothVoltages : Prop :=
  ∀ (tq : B32) (s : State), F32.ge s.motor.voltLimit 0#32 = true →
    (F32.isNaN (qVoltage tq s) = false → F32.ge s.motor.voltLimit (F32.abs (qVoltage tq s)) = true) ∧
    (F32.isNaN (dVoltage tq s) = false → F32.ge s.motor.voltLimit (F32.abs (dVoltage tq s)) = true)

/-- R141, R142: `calculate_qd` for every MOTOR_OPT, the back-EMF term, the resistance and the inductance each in its enabled
and its absent form; the worked example of R141; the document's Scenario D: with no motor parameter configured q is the
clamped target and d is `+0.0`. The conversion factor is the spec's general-knowledge value (log 11). -/
def Obligations.ScenarioD : Prop :=
  (∀ (tq : B32) (s : State),
    let VL := s.motor.voltLimit
    let bemf := if s.motor.opt.getLsbD 0 then
        F32.div (F32.div s.sensor.vel (F32.mul s.motor.kv 0x3FDDB3D7#32)) 0x3DD67750#32
      else 0#32
    let qterm := if s.motor.opt.getLsbD 1 then F32.mul tq s.motor.phaseR else tq
    qVoltage tq s = F32.clamp (F32.add qterm bemf) (F32.neg VL) VL ∧
    dVoltage tq s = if s.motor.opt.getLsbD 2 then
        F32.clamp (F32.mul (F32.mul (F32.mul (F32.neg tq) s.sensor.vel) (F32.ofNat s.motor.polePairs.toNat))
          s.motor.phaseL) (F32.neg VL) VL
      else 0#32) ∧
  F32.div (F32.div 0x41200000#32 (F32.mul 0x42C80000#32 0x3FDDB3D7#32)) 0x3DD67750#32 = 0x3F0D23E4#32 ∧
  (∀ (tq : B32) (s : State), s.motor.opt = 0#3 →
    qVoltage tq s = F32.clamp (F32.add tq 0#32) (F32.neg s.motor.voltLimit) s.motor.voltLimit ∧
    dVoltage tq s = 0#32) ∧
  (∀ s : State, s.motor.opt = 0#3 → s.motor.voltLimit = 0x40400000#32 →
    qVoltage 0x40A00000#32 s = 0x40400000#32 ∧ qVoltage 0xC0A00000#32 s = 0xC0400000#32)

/-- R144 to R147, R150: the three percentages a drive offers, for every voltage pair, angle, sine and cosine, each binary32
operation written out; and the worked example of R150, the duties at `q = 2` and at rest for the supply 12, the sine 0 and
the cosine 1. -/
def Obligations.DriveWorkedExample : Prop :=
  (∀ (q d theta : B32) (s : State),
    let sn := sin32 s theta
    let cs := cos32 s theta
    let supply := s.motor.supplyV
    let alpha := F32.sub (F32.mul cs d) (F32.mul sn q)
    let beta := F32.add (F32.mul sn d) (F32.mul cs q)
    let ua := alpha
    let ub := F32.add (F32.mul 0xBF000000#32 alpha) (F32.mul 0x3F5DB3D7#32 beta)
    let uc := F32.sub (F32.mul 0xBF000000#32 alpha) (F32.mul 0x3F5DB3D7#32 beta)
    let ab := if F32.gt ub ua then ub else ua
    let mx := if F32.gt uc ab then uc else ab
    let ba := if F32.lt ub ua then ub else ua
    let mn := if F32.lt uc ba then uc else ba
    let center := F32.sub (F32.mul supply 0x3F000000#32) (F32.mul (F32.add mx mn) 0x3F000000#32)
    dutiesFor q d theta s = {
      a := voltToPercent (F32.add ua center) supply,
      b := voltToPercent (F32.add ub center) supply,
      c := voltToPercent (F32.add uc center) supply }) ∧
  (∀ (s : State) (theta : B32), s.motor.supplyV = 0x41400000#32 → sin32 s theta = 0#32 →
    cos32 s theta = 0x3F800000#32 →
    dutiesFor 0x40000000#32 0#32 theta s = { a := 0x42480000#32, b := 0x4280DE15#32, c := 0x420E43D5#32 } ∧
    dutiesFor 0#32 0#32 theta s = { a := 0x42480000#32, b := 0x42480000#32, c := 0x42480000#32 })

/-- R152, its first claim: with a legal supply every voltage that is not a NaN gives a percentage in [0, 100]; a zero
keeps its sign. -/
def Obligations.DutyPercentagesAreBounded : Prop :=
  ∀ v supply : B32, F32.isFinite supply = true → F32.gt supply 0#32 = true → F32.isNaN v = false →
    dutyLegal (voltToPercent v supply) ∧ (F32.isZero v = true → voltToPercent v supply = v)

/-- R152, its exactness claims, and R147: exactly `+0.0` below zero, exactly 100 from the supply on, a NaN for a NaN, and
the formula of R147 for what lies between. That the two bounds hold where the rounded formula would miss them is how the
model joins R147's formula with its corner cases and R152 (log 24, DEDUCED, unsafe). -/
def Obligations.DutyClampsAreExact : Prop :=
  ∀ v supply : B32, F32.isFinite supply = true → F32.gt supply 0#32 = true →
    (F32.lt v 0#32 = true → voltToPercent v supply = 0#32) ∧
    (F32.ge v supply = true → voltToPercent v supply = 0x42C80000#32) ∧
    (F32.isNaN v = true → F32.isNaN (voltToPercent v supply) = true) ∧
    (F32.ge v 0#32 = true → F32.lt v supply = true →
      voltToPercent v supply = F32.clamp (F32.div (F32.mul v 0x42C80000#32) supply) 0#32 0x42C80000#32)

/-! ### TICK (44_tick.md) -/

/-- R180, R185: a Torque tick that its checks, its duties and its ports let through: the record, q and d from the target
itself, no PID computed. -/
def Obligations.TorqueTickCompletes : Prop :=
  ∀ (a : B32) (s : State), TickAdmits a s → s.motion.mode = .torque → AllPortsAccept s →
    let r := outsideDeadband (recorded a s)
    let q := qVoltage s.motion.target r
    let d := dVoltage s.motion.target r
    let p := dutiesFor q d (electricalAngle r) r
    p.anyNaN = false → exec .tick s = .next (afterDrive q d (electricalAngle r) p r)

/-- R182, R189: a Velocity tick that is let through: VPID on the target and the recorded velocity over this tick's own
interval; APID untouched. -/
def Obligations.VelocityTickCompletes : Prop :=
  ∀ (a : B32) (s : State), TickAdmits a s → s.motion.mode = .velocity → AllPortsAccept s →
    let dt := F32.secs (s.env.ports.clock - s.sensor.t)
    let vel := (recorded a s).sensor.vel
    let tq := s.vpid.output s.motion.target vel dt
    let r := outsideDeadband { (recorded a s) with vpid := s.vpid.advance s.motion.target vel dt }
    let q := qVoltage tq r
    let d := dVoltage tq r
    let p := dutiesFor q d (electricalAngle r) r
    p.anyNaN = false → exec .tick s = .next (afterDrive q d (electricalAngle r) p r)

/-- R183: an Angle tick outside the dead-band that is let through: APID on the continuous angle gives the setpoint of
VPID, both over the same interval. -/
def Obligations.AngleTickCompletes : Prop :=
  ∀ (a : B32) (s : State), TickAdmits a s → s.motion.mode = .angle → AllPortsAccept s →
    let n := (recorded a s).sensor
    F32.lt (F32.abs (F32.sub s.motion.target n.cont)) 0x3CF5C28F#32 = false →
    let dt := F32.secs (s.env.ports.clock - s.sensor.t)
    let vsp := s.apid.output s.motion.target n.cont dt
    let tq := s.vpid.output vsp n.vel dt
    let r := outsideDeadband { (recorded a s) with
      apid := s.apid.advance s.motion.target n.cont dt, vpid := s.vpid.advance vsp n.vel dt }
    let q := qVoltage tq r
    let d := dVoltage tq r
    let p := dutiesFor q d (electricalAngle r) r
    p.anyNaN = false → exec .tick s = .next (afterDrive q d (electricalAngle r) p r)

/-- R184: an Angle tick inside the dead-band completes with the record, DEADBAND = 1 and ERR = OK, and nothing else. -/
def Obligations.AngleDeadbandTickChangesOnlyTheRecord : Prop :=
  ∀ (a : B32) (s : State), TickAdmits a s → s.motion.mode = .angle →
    F32.lt (F32.abs (F32.sub s.motion.target (recorded a s).sensor.cont)) 0x3CF5C28F#32 = true →
    exec .tick s = .next { (recorded a s) with
      status := { (recorded a s).status with deadband := true, err := .ok, errCh := .a } }

/-- R186, R187: a Ratchet tick outside the dead-band that is let through: the target recomputed, the setpoint clamped to
VEL_LIMIT outside APID. -/
def Obligations.RatchetTickCompletes : Prop :=
  ∀ (a : B32) (s : State), TickAdmits a s → s.motion.mode = .ratchet → AllPortsAccept s →
    let n := (recorded a s).sensor
    let target := F32.mul (F32.roundHalfAway (F32.div n.cont s.motion.rRps)) s.motion.rRps
    F32.lt (F32.abs (F32.sub target n.cont)) 0x3C23D70A#32 = false →
    let dt := F32.secs (s.env.ports.clock - s.sensor.t)
    let vsp := F32.clamp (s.apid.output target n.cont dt) (F32.neg s.motor.velLimit) s.motor.velLimit
    let tq := s.vpid.output vsp n.vel dt
    let r := outsideDeadband { (recorded a s) with
      motion := { s.motion with target := target },
      apid := s.apid.advance target n.cont dt, vpid := s.vpid.advance vsp n.vel dt }
    let q := qVoltage tq r
    let d := dVoltage tq r
    let p := dutiesFor q d (electricalAngle r) r
    p.anyNaN = false → exec .tick s = .next (afterDrive q d (electricalAngle r) p r)

/-- R187: a Ratchet tick inside the dead-band completes with the record, the new target, DEADBAND = 1 and ERR = OK. -/
def Obligations.RatchetDeadbandTickMovesTheTarget : Prop :=
  ∀ (a : B32) (s : State), TickAdmits a s → s.motion.mode = .ratchet →
    let n := (recorded a s).sensor
    let target := F32.mul (F32.roundHalfAway (F32.div n.cont s.motion.rRps)) s.motion.rRps
    F32.lt (F32.abs (F32.sub target n.cont)) 0x3C23D70A#32 = true →
    exec .tick s = .next { (recorded a s) with
      motion := { s.motion with target := target },
      status := { (recorded a s).status with deadband := true, err := .ok, errCh := .a } }

/-- R188: a LimitPos tick keeps its record and enters the fatal state with UNIMPL_MODE, DEADBAND as it was. -/
def Obligations.LimitPosTickIsFatal : Prop :=
  ∀ (a : B32) (s : State), TickAdmits a s → s.motion.mode = .limitPos →
    exec .tick s = .next { (recorded a s) with
      status := { (recorded a s).status with fatal := true, err := .unimplMode, errCh := .a } }

/-- R190, R149: in every mode that drives, the first port that refuses ends the tick with PWM and its phase: the record,
DEADBAND, the PID states and the Ratchet target the mode wrote, OUT_* and the phases before it stay written, nothing after
it is offered, and what the refused port drives is no longer known (R243; the model's `unknown`, log 9, DEDUCED). -/
def Obligations.RefusedDutyKeepsEarlierPhases : Prop :=
  ∀ (a tq : B32) (s r : State) (ch : Phase), TickReachesDrive a s tq r →
    let q := qVoltage tq r
    let d := dVoltage tq r
    let p := dutiesFor q d (electricalAngle r) r
    p.anyNaN = false → s.env.ports.firstRefused = some ch →
    exec .tick s = .next (afterRefusal q d (electricalAngle r) p r ch)

/-- R191, R148: in every mode that drives, a NaN percentage ends the tick with NUMERIC before any port is written, the
record, DEADBAND, the PID states and the Ratchet target the mode wrote, and OUT_* staying written. -/
def Obligations.NanDutyEndsInNumeric : Prop :=
  ∀ (a tq : B32) (s r : State), TickReachesDrive a s tq r →
    let q := qVoltage tq r
    let d := dVoltage tq r
    (dutiesFor q d (electricalAngle r) r).anyNaN = true →
    exec .tick s = .next (afterNumeric q d (electricalAngle r) r)

/-- R193, R124: whatever path a TICK takes, it changes no configuration register, no MODE or geometry, no CAL_OFFSET, no
OpenLoop or argument register and no gain, and outside the Ratchet mode no TARGET. -/
def Obligations.TickKeepsConfiguration : Prop :=
  ∀ s : State, ∃ t, exec .tick s = .next t ∧
    t.args = s.args ∧ t.motor = s.motor ∧ t.retune = s.retune ∧ t.ol = s.ol ∧ t.calOffset = s.calOffset ∧
    t.align = s.align ∧ t.pending = s.pending ∧ t.status.aligned = s.status.aligned ∧
    t.status.lastOp = s.status.lastOp ∧ t.status.wdrop = s.status.wdrop ∧
    t.motion = { s.motion with target := t.motion.target } ∧
    (s.motion.mode ≠ .ratchet → t.motion.target = s.motion.target) ∧
    t.vpid = { s.vpid with integ := t.vpid.integ, prevErr := t.vpid.prevErr, prevOut := t.vpid.prevOut } ∧
    t.apid = { s.apid with integ := t.apid.integ, prevErr := t.apid.prevErr, prevOut := t.apid.prevOut }

/-! ### OL_TICK (46_openloop.md) -/

/-- R221: an OL_TICK that is let through integrates the shaft angle over its interval and drives half the voltage limit
on q at the angle times the pole pairs; with a NaN percentage it ends in NUMERIC and at the first refused duty in PWM, the
angle and the instant, OUT_* and the phases committed before staying written; what the refused port drives is no longer
known (R243; the model's `unknown`, log 9, DEDUCED). -/
def Obligations.OlTickCompletes : Prop :=
  ∀ s : State, OlTickAdmits s →
    let angle := F32.add s.ol.angle (F32.mul s.ol.vel (F32.secs (s.env.ports.clock - s.ol.t)))
    let r := { s with ol := { s.ol with angle := angle, t := s.env.ports.clock }, env := s.env.logged [.clock] }
    let q := F32.mul s.motor.voltLimit 0x3F000000#32
    let theta := F32.mul angle (F32.ofNat s.motor.polePairs.toNat)
    let p := dutiesFor q 0#32 theta r
    (p.anyNaN = false → AllPortsAccept s → exec .olTick s = .next (afterDrive q 0#32 theta p r)) ∧
    (p.anyNaN = true → exec .olTick s = .next (afterNumeric q 0#32 theta r)) ∧
    (p.anyNaN = false → ∀ ch, s.env.ports.firstRefused = some ch →
      exec .olTick s = .next (afterRefusal q 0#32 theta p r ch))

/-- R220: what an OL_TICK does depends on no sensor state, MODE, TARGET or calibration offset, and it changes none of
them, nor any PID. -/
def Obligations.OlTickIgnoresTheClosedLoop : Prop :=
  ∀ (n : Sensor) (m : Motion) (c : B32) (s : State), ∃ t,
    exec .olTick s = .next t ∧
    exec .olTick { s with sensor := n, motion := m, calOffset := c } =
      .next { t with sensor := n, motion := m, calOffset := c } ∧
    t.sensor = s.sensor ∧ t.motion = s.motion ∧ t.calOffset = s.calOffset ∧ t.vpid = s.vpid ∧ t.apid = s.apid ∧
    t.motor = s.motor ∧ t.args = s.args ∧ t.retune = s.retune ∧ t.align = s.align ∧ t.pending = s.pending

/-! ### ALIGN (45_align.md) -/

/-- R201 to R203: an ALIGN that is let through records, drives the half-supply vector at ALIGN_ANGLE and enters its
dwell with the clock value and the raw electrical angle before the pulse. -/
def Obligations.AlignPulseEntersTheDwell : Prop :=
  ∀ (a : B32) (s : State), AlignAdmits a s → AllPortsAccept s →
    let r := recorded a s
    let q := F32.mul s.motor.supplyV 0x3F000000#32
    let p := dutiesFor q 0#32 s.motor.alignAngle r
    p.anyNaN = false →
    exec .align s = .next { (afterDrive q 0#32 s.motor.alignAngle p r) with
      align := { phase := .dwell, t0 := s.env.ports.clock,
                 eb := normalize (F32.mul a (F32.ofNat s.motor.polePairs.toNat)) } }

/-- R208, R148, R149: a forcing pulse with a NaN percentage ends the ALIGN with NUMERIC before any port is written, and one
a port refuses ends it with PWM and the first refused phase, the latches and outputs of the phases before it written; the
record and OUT_* stay, no dwell is entered, it is not fatal, what the refused port drives is no longer known (R243; the
model's `unknown`, log 9, DEDUCED), and nothing else changes. -/
def Obligations.FailedPulseEntersNoDwell : Prop :=
  ∀ (a : B32) (s : State), AlignAdmits a s →
    let r := recorded a s
    let q := F32.mul s.motor.supplyV 0x3F000000#32
    let p := dutiesFor q 0#32 s.motor.alignAngle r
    (p.anyNaN = true → exec .align s = .next (afterNumeric q 0#32 s.motor.alignAngle r)) ∧
    (p.anyNaN = false → ∀ ch, s.env.ports.firstRefused = some ch →
      exec .align s = .next (afterRefusal q 0#32 s.motor.alignAngle p r ch))

/-- R204: before the dwell has passed the ALIGN stays in it, and every write to CMD or an RW register is dropped with
WDROP = 1. The model's choices: a block event met before the end is a step that changes nothing (log 14, DESIGN CHOICE) and
logs no port access for its comparison of the clock (log 8, DESIGN CHOICE); a write of 0 to POLE_PAIRS is dropped with WDROP
like any other (log 18, DEDUCED, unsafe). -/
def Obligations.DwellHoldsUntilItHasPassed : Prop :=
  ∀ (p : Ports) (rest : List Event) (s : State), s.align.phase = .dwell →
    (s.env.agenda = .block p :: rest → p.clock.toNat < s.align.t0.toNat + 700000 →
      step s = .next (atBlockStep p rest s)) ∧
    (∀ (r : Reg) (v : Word), r.access ≠ .ro →
      s.env.agenda = .host (.write (BitVec.ofNat 32 r.offset) .word v) :: rest →
      step s = .next { (afterAccess .written rest s) with status := { s.status with wdrop := true } })

/-- R205, R207: phase 2 with a moved electrical angle completes the alignment. -/
def Obligations.AlignmentSucceeds : Prop :=
  ∀ (p : Ports) (rest : List Event) (a : B32) (s : State), s.env.agenda = .block p :: rest →
    s.align.phase = .dwell → s.align.t0.toNat + 700000 ≤ p.clock.toNat → p.sensor = .ok a → inRange a = true →
    let r := recorded a (atBlockStep p rest s)
    let eAfter := normalize (F32.mul a (F32.ofNat s.motor.polePairs.toNat))
    F32.eq eAfter s.align.eb = false →
    step s = .next { r with
      align := { s.align with phase := .idle },
      calOffset := eAfter,
      sensor := { r.sensor with
        rev := 0#32, vel := 0#32, cont := F32.add (F32.mul (F32.ofInt 0) 0x40C90FDB#32) a },
      status := { r.status with aligned := true, err := .ok, errCh := .a } }

/-- R206: phase 2 with an unchanged electrical angle is fatal: the record stays, the offset is not touched. -/
def Obligations.UnmovedAlignmentIsFatal : Prop :=
  ∀ (p : Ports) (rest : List Event) (a : B32) (s : State), s.env.agenda = .block p :: rest →
    s.align.phase = .dwell → s.align.t0.toNat + 700000 ≤ p.clock.toNat → p.sensor = .ok a → inRange a = true →
    let r := recorded a (atBlockStep p rest s)
    F32.eq (normalize (F32.mul a (F32.ofNat s.motor.polePairs.toNat))) s.align.eb = true →
    step s = .next { r with
      align := { s.align with phase := .idle },
      status := { r.status with fatal := true, err := .alignFail, errCh := .a } }

/-- R208: a failed sensor read in phase 2 aborts the alignment without a record and without the fatal state. -/
def Obligations.FailedSensorAbortsPhase2 : Prop :=
  ∀ (p : Ports) (rest : List Event) (s : State), s.env.agenda = .block p :: rest →
    s.align.phase = .dwell → s.align.t0.toNat + 700000 ≤ p.clock.toNat →
    let x := { (atBlockStep p rest s) with align := { s.align with phase := .idle } }
    (p.sensor = .err → step s = .next (endedWith .sensor .a [.clock, .sensor] x)) ∧
    (∀ a, p.sensor = .ok a → inRange a = false →
      step s = .next (endedWith .sensorRange .a [.clock, .sensor] x))

/-! ### The machine -/

/-- R160: a block step of a pending word that decodes runs that command, the word taken out of PENDING first. -/
def Obligations.StepRunsTheDecodedCommand : Prop :=
  ∀ (p : Ports) (rest : List Event) (w : Word) (i : Instr) (s : State), s.env.agenda = .block p :: rest →
    s.align.phase = .idle → s.pending = some w → decode w = .ok i →
    step s = exec i { (atBlockStep p rest s) with pending := none }

/-- R160, R275: a block step of a pending word leaves nothing pending, and leaves BUSY = 1 only for ALIGN. -/
def Obligations.BusyFallsAtTheFirstBlockStep : Prop :=
  ∀ (p : Ports) (rest : List Event) (w : Word) (s : State), s.env.agenda = .block p :: rest →
    s.align.phase = .idle → s.pending = some w →
    ∃ t, step s = .next t ∧ t.pending = none ∧ (busy t = true → decode w = .ok .align)

/-- R74, R149: the port accesses of every step come in one order: the clock, then the sensor, then duty A, B, C up to and
including the first the ports of its block event refuse; a step that is no block step accesses none. -/
def Obligations.PortsAreAccessedInOrder : Prop :=
  ∀ s t : State, step s = .next t →
    (∀ (ports : Ports) (rest : List Event), s.env.agenda = .block ports :: rest →
      ∃ (clock sensor : Bool) (p : Duty) (k : Nat),
        t.env.portLog = (if clock then [PortAccess.clock] else []) ++ (if sensor then [PortAccess.sensor] else []) ++
          [PortAccess.pwm .a p.a, PortAccess.pwm .b p.b, PortAccess.pwm .c p.c].take k ∧
        (sensor = true → clock = true) ∧ (k ≠ 0 → clock = true) ∧
        (k = 0 ∨ k = (if ports.pwmA = false then 1 else if ports.pwmB = false then 2 else 3))) ∧
    ((∀ (ports : Ports) (rest : List Event), s.env.agenda ≠ .block ports :: rest) → t.env.portLog = [])

/-- R148, R243: no step from any state offers a duty port a NaN or a percentage outside [0, 100]. -/
def Obligations.EveryOfferedDutyIsLegal : Prop :=
  ∀ s t : State, step s = .next t → ∀ ch p, PortAccess.pwm ch p ∈ t.env.portLog → dutyLegal p

/-- R50, R52, R37, R35, R32, R232 and the others SafeState names: every step keeps a safe state safe. -/
def Obligations.EveryStepKeepsTheStateSafe : Prop :=
  ∀ s t : State, SafeState s → step s = .next t → SafeState t

/-- R270, R271: the reset state is safe. -/
def Obligations.ResetStateIsSafe : Prop := SafeState State.reset

/-- R232, R26, R286: from a safe fatal state a step either leaves it fatal with its cause, its duties and its outputs, or is
a reset, after which nothing is known of the outputs (R272; the model's `unknown`, log 9); no port is accessed either way. -/
def Obligations.FatalStateIsLeftOnlyByReset : Prop :=
  ∀ s t : State, SafeState s → s.status.fatal = true → step s = .next t →
    t.env.portLog = [] ∧
    ((t.status.fatal = true ∧ t.status.err = s.status.err ∧ t.duty = s.duty ∧ t.env.outputs = s.env.outputs ∧
        t.sensor = s.sensor ∧ t.motion = s.motion) ∨
      (t = { State.reset with env := t.env } ∧ t.env.outputs = { a := .unknown, b := .unknown, c := .unknown } ∧
        ((∃ rest, s.env.agenda = .reset :: rest) ∨ s.pending = some 0x000000FF#32)))

/-- R27, R232, R26: FATAL is set by nothing but the block step of a TICK word in LimitPos mode, with UNIMPL_MODE, and phase 2
of an ALIGN, with ALIGN_FAIL; ALIGNED by nothing but phase 2 of an ALIGN, with OK. Phase 2 is the block step in a dwell of
which 700000 counts have passed. -/
def Obligations.OnlyTickAndAlignmentSetTheFlags : Prop :=
  ∀ s t : State, step s = .next t →
    let phase2 := ∃ (p : Ports) (rest : List Event), s.env.agenda = .block p :: rest ∧ s.align.phase = .dwell ∧
      s.align.t0.toNat + 700000 ≤ p.clock.toNat
    (s.status.fatal = false → t.status.fatal = true →
      (t.status.err = .unimplMode ∧ s.motion.mode = .limitPos ∧
        ∃ (p : Ports) (rest : List Event) (w : Word), s.env.agenda = .block p :: rest ∧ s.align.phase = .idle ∧
          s.pending = some w ∧ decode w = .ok .tick) ∨
      (t.status.err = .alignFail ∧ phase2)) ∧
    (s.status.aligned = false → t.status.aligned = true → t.status.err = .ok ∧ phase2)

/-! ### The electrical angle (40_sensor.md) -/

/-- R104, R105, R106: the two cases of `normalize` with its corner cases; the electrical angle of the bounded S_ANGLE, the
offset subtracted while ALIGNED and `+0.0` in its place otherwise; the raw electrical angle; the worked examples. -/
def Obligations.ElectricalAngleRule : Prop :=
  (∀ x : B32, let r := F32.fmod x 0x40C90FDB#32
    (F32.lt r 0#32 = true → normalize x = F32.add r 0x40C90FDB#32) ∧
    (F32.lt r 0#32 = false → normalize x = r) ∧
    (F32.isFinite x = false → F32.isNaN (normalize x) = true)) ∧
  (∀ s : State, let e := F32.mul s.sensor.angle (F32.ofNat s.motor.polePairs.toNat)
    (s.status.aligned = true → electricalAngle s = normalize (F32.sub e s.calOffset)) ∧
    (s.status.aligned = false → electricalAngle s = normalize (F32.sub e 0#32)) ∧
    (s.sensor.angle = 0x3F800000#32 → s.motor.polePairs = 7#32 → s.status.aligned = false →
      electricalAngle s = 0x3F378128#32)) ∧
  (∀ (a : B32) (s : State), rawElectricalAngle a s = normalize (F32.mul a (F32.ofNat s.motor.polePairs.toNat)) ∧
    (a = 0x3F800000#32 → s.motor.polePairs = 7#32 → rawElectricalAngle a s = 0x3F378128#32)) ∧
  normalize 0xBF800000#32 = 0x40A90FDB#32 ∧ normalize 0x80000000#32 = 0x80000000#32 ∧
  normalize 0xB22BCC77#32 = 0x40C90FDB#32
end

