-- ==== Sys2Proof/Laws/Decode.lean ====
section
/-! SUPPORT. Sys2Proof/Laws/Decode.lean: the fields of a command word and of an encoded command. -/

namespace Sys2Proof

/-- The command word as a number: IMM16 above RSV = 0 above OPCODE (30_encoding.md R80). -/
theorem encode_toNat (i : Instr) : (encode i).toNat = i.imm.toNat * 65536 + i.opcode.toNat := by
  have h := i.opcode.isLt
  have e1 : (0#8 ++ i.opcode).toNat = i.opcode.toNat := by
    rw [BitVec.toNat_append, ← Nat.shiftLeft_add_eq_or_of_lt h]
    simp
  have e2 : (i.imm ++ (0#8 ++ i.opcode)).toNat = i.imm.toNat <<< 16 ||| (0#8 ++ i.opcode).toNat :=
    BitVec.toNat_append ..
  refine e2.trans ?_
  rw [e1, ← Nat.shiftLeft_add_eq_or_of_lt (by omega), Nat.shiftLeft_eq]

/-- The three fields of an encoded command. -/
theorem encode_fields (i : Instr) :
    opcodeOf (encode i) = i.opcode ∧ rsvOf (encode i) = 0#8 ∧ immOf (encode i) = i.imm := by
  have h := i.opcode.isLt
  have h2 := i.imm.isLt
  refine ⟨?_, ?_, ?_⟩ <;>
    (apply BitVec.eq_of_toNat_eq
     simp only [opcodeOf, rsvOf, immOf, BitVec.extractLsb'_toNat, encode_toNat, Nat.shiftRight_eq_div_pow]
     simp
     try omega)

/-- A word is known by its three fields. -/
theorem encode_eq_of_fields (w : Word) (i : Instr) (h1 : opcodeOf w = i.opcode) (h2 : rsvOf w = 0#8)
    (h3 : immOf w = i.imm) : encode i = w := by
  apply BitVec.eq_of_toNat_eq
  have h4 := congrArg BitVec.toNat h2
  have hw := w.isLt
  rw [encode_toNat, ← h1, ← h3]
  simp only [opcodeOf, rsvOf, immOf, BitVec.extractLsb'_toNat, Nat.shiftRight_eq_div_pow] at h4 ⊢
  simp at h4 ⊢
  omega

end Sys2Proof
end

