-- ==== Sys2Proof/Laws/Float.lean ====
section
/-! SUPPORT. Sys2Proof/Laws/Float.lean: what the binary32 operations do with NaNs, signs and order, and that rounding is
exact on the values binary32 holds. -/

namespace Sys2Proof.Machine.F32

/-! ### Sign, magnitude, NaN -/

theorem sign_eq (x : B32) : sign x = decide (2 ^ 31 ≤ x.toNat) := BitVec.msb_eq_decide x

theorem mag_lt (x : B32) : mag x < 2 ^ 31 := Nat.mod_lt _ (by norm_num)

theorem toNat_eq (x : B32) : x.toNat = (if sign x then 2 ^ 31 else 0) + mag x := by
  have h := x.isLt
  rw [sign_eq]
  unfold mag
  by_cases hs : 2 ^ 31 ≤ x.toNat
  · simp only [hs, decide_true, if_true]
    omega
  · simp only [hs, decide_false]
    simp
    omega

theorem eq_of_sign_mag {x y : B32} (hs : sign x = sign y) (hm : mag x = mag y) : x = y := by
  apply BitVec.eq_of_toNat_eq
  rw [toNat_eq, toNat_eq, hs, hm]

theorem isNaN_iff (x : B32) : isNaN x = true ↔ infMag < mag x := by simp [isNaN]
theorem isNaN_false_iff (x : B32) : isNaN x = false ↔ mag x ≤ infMag := by simp [isNaN]
theorem isInf_iff (x : B32) : isInf x = true ↔ mag x = infMag := by simp [isInf]
theorem isFinite_iff (x : B32) : isFinite x = true ↔ mag x < infMag := by simp [isFinite]
theorem isZero_iff (x : B32) : isZero x = true ↔ mag x = 0 := by simp [isZero]

theorem isFinite_not_isNaN (x : B32) (h : isFinite x = true) : isNaN x = false := by
  rw [isFinite_iff] at h
  rw [isNaN_false_iff]
  omega

theorem isFinite_not_isInf (x : B32) (h : isFinite x = true) : isInf x = false := by
  rw [isFinite_iff] at h
  simp only [isInf, decide_eq_false_iff_not]
  omega

@[simp] theorem isNaN_toNaN (x : Word) : isNaN (toNaN x) = true := by
  unfold toNaN
  split
  · assumption
  · simp only [isNaN, mag, BitVec.toNat_or, Nat.or_mod_two_pow, decide_eq_true_eq]
    exact lt_of_lt_of_le (by decide) Nat.right_le_or

@[simp] theorem isNaN_freeNaN (op : FpOp) (a b : B32) : isNaN (freeNaN op a b) = true := isNaN_toNaN _

@[simp] theorem mag_neg (x : B32) : mag (neg x) = mag x := by
  simp only [mag, neg, BitVec.toNat_xor, Nat.xor_mod_two_pow]
  simp

@[simp] theorem sign_neg (x : B32) : sign (neg x) = !sign x := by simp [sign, neg]

@[simp] theorem mag_abs (x : B32) : mag (abs x) = mag x := by
  simp only [mag, abs, BitVec.toNat_and]
  rw [show (0x7FFFFFFF#32).toNat = 2 ^ 31 - 1 from rfl, Nat.and_two_pow_sub_one_eq_mod]
  simp

@[simp] theorem sign_abs (x : B32) : sign (abs x) = false := by simp [sign, abs]

@[simp] theorem isNaN_neg (x : B32) : isNaN (neg x) = isNaN x := by simp [isNaN]
@[simp] theorem isNaN_abs (x : B32) : isNaN (abs x) = isNaN x := by simp [isNaN]

@[simp] theorem key_neg (x : B32) : key (neg x) = -key x := by
  unfold key
  cases h : sign x <;> simp [h]

@[simp] theorem key_abs (x : B32) : key (abs x) = |key x| := by
  unfold key
  cases h : sign x <;> simp

theorem key_natAbs (x : B32) : (key x).natAbs = mag x := by
  unfold key
  cases sign x <;> simp

/-! ### Order -/

theorem lt_iff (a b : B32) : lt a b = true ↔ isNaN a = false ∧ isNaN b = false ∧ key a < key b := by
  simp [lt, and_assoc]

theorem gt_iff (a b : B32) : gt a b = true ↔ isNaN a = false ∧ isNaN b = false ∧ key b < key a := by
  rw [gt, lt_iff]
  tauto

theorem ge_iff (a b : B32) : ge a b = true ↔ isNaN a = false ∧ isNaN b = false ∧ key b ≤ key a := by
  simp [ge, and_assoc]

theorem eq_iff (a b : B32) : eq a b = true ↔ isNaN a = false ∧ isNaN b = false ∧ key a = key b := by
  simp [eq, and_assoc]

theorem lt_false_of_isNaN_left (a b : B32) (h : isNaN a = true) : lt a b = false := by simp [lt, h]
theorem lt_false_of_isNaN_right (a b : B32) (h : isNaN b = true) : lt a b = false := by simp [lt, h]

theorem lt_false_iff (a b : B32) (ha : isNaN a = false) (hb : isNaN b = false) : lt a b = false ↔ key b ≤ key a := by
  simp [lt, ha, hb]

theorem gt_false_iff (a b : B32) (ha : isNaN a = false) (hb : isNaN b = false) : gt a b = false ↔ key a ≤ key b :=
  lt_false_iff b a hb ha

/-! ### The clamp -/

/-- A NaN goes through the clamp. -/
theorem clamp_isNaN (x lo hi : B32) (h : isNaN x = true) : clamp x lo hi = x := by
  simp [clamp, gt, lt, h]

/-- Between legal bounds, what is not a NaN comes out within them. -/
theorem clamp_bounds (x lo hi : B32) (hx : isNaN x = false) (hlo : isNaN lo = false) (hhi : isNaN hi = false)
    (h : key lo ≤ key hi) :
    isNaN (clamp x lo hi) = false ∧ key lo ≤ key (clamp x lo hi) ∧ key (clamp x lo hi) ≤ key hi := by
  unfold clamp
  cases h1 : lt x lo with
  | true => simpa [hlo] using h
  | false =>
    cases h2 : gt x hi with
    | true => simpa [hhi] using h
    | false =>
      rw [lt_false_iff _ _ hx hlo] at h1
      rw [gt_false_iff _ _ hx hhi] at h2
      exact ⟨by simpa using hx, by simpa using h1, by simpa using h2⟩

/-- A value within the bounds is answered as it is. -/
theorem clamp_within (x lo hi : B32) (h1 : lt x lo = false) (h2 : gt x hi = false) : clamp x lo hi = x := by
  simp [clamp, h1, h2]

theorem clamp_isNaN_iff (x lo hi : B32) (hlo : isNaN lo = false) (hhi : isNaN hi = false) :
    isNaN (clamp x lo hi) = isNaN x := by
  cases hx : isNaN x with
  | true => rw [clamp_isNaN x lo hi hx, hx]
  | false =>
    unfold clamp
    cases lt x lo <;> cases gt x hi <;> simp [hlo, hhi, hx]

/-! ### NaNs in, NaNs out -/

theorem add_isNaN_left (a b : B32) (h : isNaN a = true) : isNaN (add a b) = true := by simp [add, addOr, h]
theorem add_isNaN_right (a b : B32) (h : isNaN b = true) : isNaN (add a b) = true := by simp [add, addOr, h]
theorem sub_isNaN_left (a b : B32) (h : isNaN a = true) : isNaN (sub a b) = true := by simp [sub, addOr, h]
theorem sub_isNaN_right (a b : B32) (h : isNaN b = true) : isNaN (sub a b) = true := by simp [sub, addOr, h]
theorem mul_isNaN_left (a b : B32) (h : isNaN a = true) : isNaN (mul a b) = true := by simp [mul, h]
theorem mul_isNaN_right (a b : B32) (h : isNaN b = true) : isNaN (mul a b) = true := by simp [mul, h]
theorem div_isNaN_left (a b : B32) (h : isNaN a = true) : isNaN (div a b) = true := by simp [div, h]
theorem div_isNaN_right (a b : B32) (h : isNaN b = true) : isNaN (div a b) = true := by simp [div, h]

/-! ### Rounded results -/

theorem roundMag_le (n d : Nat) : roundMag n d ≤ infMag := Nat.min_le_right _ _

theorem toNat_pack (s : Bool) (m : Nat) (h : m ≤ infMag) : (pack s m).toNat = if s then m + 2 ^ 31 else m := by
  unfold infMag at h
  unfold pack
  cases s <;> simp <;> omega

theorem mag_pack (s : Bool) (m : Nat) (h : m ≤ infMag) : mag (pack s m) = m := by
  rw [mag, toNat_pack s m h]
  unfold infMag at h
  cases s <;> simp <;> omega

theorem sign_pack (s : Bool) (m : Nat) (h : m ≤ infMag) : sign (pack s m) = s := by
  rw [sign_eq, toNat_pack s m h]
  unfold infMag at h
  cases s <;> simp
  omega

theorem isNaN_pack (s : Bool) (m : Nat) (h : m ≤ infMag) : isNaN (pack s m) = false := by
  rw [isNaN_false_iff, mag_pack s m h]
  exact h

@[simp] theorem isNaN_pack_roundMag (s : Bool) (n d : Nat) : isNaN (pack s (roundMag n d)) = false :=
  isNaN_pack _ _ (roundMag_le n d)

@[simp] theorem mag_pack_roundMag (s : Bool) (n d : Nat) : mag (pack s (roundMag n d)) = roundMag n d :=
  mag_pack _ _ (roundMag_le n d)

@[simp] theorem sign_pack_roundMag (s : Bool) (n d : Nat) : sign (pack s (roundMag n d)) = s :=
  sign_pack _ _ (roundMag_le n d)

@[simp] theorem mag_pack_zero (s : Bool) : mag (pack s 0) = 0 := mag_pack s 0 (by decide)
@[simp] theorem mag_signedZero (s : Bool) : mag (signedZero s) = 0 := mag_pack s 0 (by decide)
@[simp] theorem sign_signedZero (s : Bool) : sign (signedZero s) = s := sign_pack s 0 (by decide)
@[simp] theorem mag_infinity (s : Bool) : mag (infinity s) = infMag := mag_pack s infMag (le_refl _)
@[simp] theorem sign_infinity (s : Bool) : sign (infinity s) = s := sign_pack s infMag (le_refl _)

/-- A zero numerator rounds to zero. -/
@[simp] theorem roundMag_zero (d : Nat) : roundMag 0 d = 0 := by simp [roundMag, roundDiv]

theorem roundDiv_one (n : Nat) : roundDiv n 1 = n := by simp [roundDiv, Nat.mod_one]

/-- A value that binary32 holds rounds to itself. -/
theorem roundMag_units (x : B32) (h : isFinite x = true) : roundMag (units x) 1 = mag x := by
  rw [isFinite_iff] at h
  have hm : mag x / 2 ^ 23 * 2 ^ 23 + mag x % 2 ^ 23 = mag x := by omega
  have hf : mag x % 2 ^ 23 < 2 ^ 23 := Nat.mod_lt _ (by norm_num)
  unfold roundMag units
  by_cases he : mag x / 2 ^ 23 = 0
  · have hl : Nat.log2 (mag x % 2 ^ 23) - 23 = 0 := by
      by_cases hz : mag x % 2 ^ 23 = 0
      · rw [hz]
        rfl
      · have := (Nat.log2_lt hz).2 hf
        omega
    simp only [he, if_true, Nat.div_one, hl, Nat.zero_mul, Nat.pow_zero, Nat.mul_one, roundDiv_one, Nat.zero_add]
    rw [Nat.min_eq_left] <;> omega
  · obtain ⟨e, he'⟩ : ∃ e, mag x / 2 ^ 23 = e + 1 := ⟨mag x / 2 ^ 23 - 1, by omega⟩
    have hlow : 2 ^ (23 + e) ≤ (2 ^ 23 + mag x % 2 ^ 23) * 2 ^ e := by
      rw [Nat.pow_add]
      exact Nat.mul_le_mul_right _ (by omega)
    have hhigh : (2 ^ 23 + mag x % 2 ^ 23) * 2 ^ e < 2 ^ (23 + e + 1) := by
      rw [show 23 + e + 1 = 24 + e by omega, Nat.pow_add]
      exact Nat.mul_lt_mul_of_pos_right (by omega) (Nat.two_pow_pos e)
    have hne : (2 ^ 23 + mag x % 2 ^ 23) * 2 ^ e ≠ 0 := by
      have := Nat.two_pow_pos (23 + e)
      omega
    have hl : Nat.log2 ((2 ^ 23 + mag x % 2 ^ 23) * 2 ^ e) = 23 + e := by
      have h1 := (Nat.log2_lt hne).2 hhigh
      have h2 := (Nat.le_log2 hne).2 hlow
      omega
    have hr : roundDiv ((2 ^ 23 + mag x % 2 ^ 23) * 2 ^ e) (1 * 2 ^ e) = 2 ^ 23 + mag x % 2 ^ 23 := by
      have := Nat.two_pow_pos e
      simp only [roundDiv, Nat.one_mul, Nat.mul_div_cancel _ this, Nat.mul_mod_left, Nat.mul_zero]
      rw [if_neg (by omega)]
    simp only [he', Nat.add_sub_cancel, Nat.div_one, hl, Nat.succ_ne_zero, if_false, Nat.add_sub_cancel_left, hr]
    have hsum : e * 2 ^ 23 + (2 ^ 23 + mag x % 2 ^ 23) = mag x := by
      rw [he', Nat.succ_mul] at hm
      rw [← Nat.add_assoc]
      exact hm
    rw [hsum, Nat.min_eq_left (Nat.le_of_lt h)]

/-! ### Zeros -/

theorem units_of_mag_zero (x : B32) (h : mag x = 0) : units x = 0 := by simp [units, h]

theorem isZero_isFinite (x : B32) (h : isZero x = true) : isFinite x = true := by
  rw [isZero_iff] at h
  rw [isFinite_iff, h]
  decide

theorem key_isZero (x : B32) : key x = 0 ↔ isZero x = true := by
  rw [isZero_iff]
  unfold key
  cases sign x <;> simp

/-- A zero times a finite value is a zero. -/
theorem mul_isZero_left (a b : B32) (ha : isZero a = true) (hb : isFinite b = true) : isZero (mul a b) = true := by
  have hfa := isZero_isFinite a ha
  have hu := units_of_mag_zero a ((isZero_iff a).1 ha)
  simp [mul, isFinite_not_isNaN, isFinite_not_isInf, hfa, hb, hu, isZero_iff]

theorem mul_isZero_right (a b : B32) (ha : isFinite a = true) (hb : isZero b = true) : isZero (mul a b) = true := by
  have hfb := isZero_isFinite b hb
  have hu := units_of_mag_zero b ((isZero_iff b).1 hb)
  simp [mul, isFinite_not_isNaN, isFinite_not_isInf, ha, hfb, hu, isZero_iff]

/-- A zero over a finite value that is not one is a zero. -/
theorem div_isZero_left (a b : B32) (ha : isZero a = true) (hb : isFinite b = true) (hz : isZero b = false) :
    isZero (div a b) = true := by
  have hfa := isZero_isFinite a ha
  have hu := units_of_mag_zero a ((isZero_iff a).1 ha)
  simp [div, isFinite_not_isNaN, isFinite_not_isInf, hfa, hb, hz, hu, isZero_iff (pack _ _)]

/-- Adding a zero to a finite value leaves its place in the order. -/
theorem sumFinite_zero_right (a b : B32) (ha : isFinite a = true) (hb : isZero b = true) :
    key (sumFinite a b) = key a ∧ isFinite (sumFinite a b) = true := by
  have hu : sunits b = 0 := by simp [sunits, units_of_mag_zero b ((isZero_iff b).1 hb)]
  have hr := roundMag_units a ha
  unfold sumFinite
  simp only [hu, add_zero]
  by_cases hz : sunits a = 0
  · have h0 : units a = 0 := by
      unfold sunits at hz
      split at hz <;> omega
    have hm : mag a = 0 := by
      rw [← hr, h0]
      exact roundMag_zero 1
    rw [if_pos hz]
    refine ⟨?_, by rw [isFinite_iff, mag_signedZero]; decide⟩
    rw [(key_isZero _).2 ((isZero_iff _).2 (mag_signedZero _)), (key_isZero _).2 ((isZero_iff _).2 hm)]
  · rw [if_neg hz]
    have hn : (sunits a).natAbs = units a := by
      unfold sunits
      split <;> omega
    have hs : decide (sunits a < 0) = sign a := by
      unfold sunits at hz ⊢
      cases sign a <;> simp at hz ⊢
      omega
    rw [hn, hs, isFinite_iff, mag_pack_roundMag, hr]
    refine ⟨?_, (isFinite_iff a).1 ha⟩
    have hle : mag a ≤ infMag := Nat.le_of_lt ((isFinite_iff a).1 ha)
    rw [key, sign_pack _ _ hle, mag_pack _ _ hle, key]

theorem addOr_finite (nan a b : B32) (ha : isFinite a = true) (hb : isFinite b = true) :
    addOr nan a b = sumFinite a b := by
  simp [addOr, isFinite_not_isNaN, isFinite_not_isInf, ha, hb]

theorem sumFinite_comm (a b : B32) : sumFinite a b = sumFinite b a := by
  unfold sumFinite
  rw [Int.add_comm, Bool.and_comm]

theorem add_zero_right (a b : B32) (ha : isFinite a = true) (hb : isZero b = true) :
    key (add a b) = key a ∧ isFinite (add a b) = true := by
  rw [add, addOr_finite _ _ _ ha (isZero_isFinite b hb)]
  exact sumFinite_zero_right a b ha hb

theorem add_zero_left (a b : B32) (ha : isZero a = true) (hb : isFinite b = true) :
    key (add a b) = key b ∧ isFinite (add a b) = true := by
  rw [add, addOr_finite _ _ _ (isZero_isFinite a ha) hb, sumFinite_comm]
  exact sumFinite_zero_right b a hb ha

theorem sub_zero_left (a b : B32) (ha : isZero a = true) (hb : isFinite b = true) :
    key (sub a b) = -key b ∧ isFinite (sub a b) = true := by
  have hnb : isFinite (neg b) = true := by rw [isFinite_iff, mag_neg, ← isFinite_iff]; exact hb
  rw [sub, addOr_finite _ _ _ (isZero_isFinite a ha) hnb, sumFinite_comm, ← key_neg]
  exact sumFinite_zero_right (neg b) a hnb ha

end Sys2Proof.Machine.F32
end

