-- ==== Sys2Proof/Laws/State.lean ====
section
/-! SUPPORT. Sys2Proof/Laws/State.lean: for each named update of State, what it leaves in each field, so that no proof
unfolds a record update. -/

namespace Sys2Proof.Machine

@[simp] theorem setResult_motion (e : Err) (ch : Phase) (s : State) : (setResult e ch s).motion = s.motion := rfl
@[simp] theorem setResult_args (e : Err) (ch : Phase) (s : State) : (setResult e ch s).args = s.args := rfl
@[simp] theorem setResult_motor (e : Err) (ch : Phase) (s : State) : (setResult e ch s).motor = s.motor := rfl
@[simp] theorem setResult_calOffset (e : Err) (ch : Phase) (s : State) :
    (setResult e ch s).calOffset = s.calOffset := rfl
@[simp] theorem setResult_vpid (e : Err) (ch : Phase) (s : State) : (setResult e ch s).vpid = s.vpid := rfl
@[simp] theorem setResult_apid (e : Err) (ch : Phase) (s : State) : (setResult e ch s).apid = s.apid := rfl
@[simp] theorem setResult_retune (e : Err) (ch : Phase) (s : State) : (setResult e ch s).retune = s.retune := rfl
@[simp] theorem setResult_sensor (e : Err) (ch : Phase) (s : State) : (setResult e ch s).sensor = s.sensor := rfl
@[simp] theorem setResult_duty (e : Err) (ch : Phase) (s : State) : (setResult e ch s).duty = s.duty := rfl
@[simp] theorem setResult_drive (e : Err) (ch : Phase) (s : State) : (setResult e ch s).drive = s.drive := rfl
@[simp] theorem setResult_ol (e : Err) (ch : Phase) (s : State) : (setResult e ch s).ol = s.ol := rfl
@[simp] theorem setResult_status_fatal (e : Err) (ch : Phase) (s : State) :
    (setResult e ch s).status.fatal = s.status.fatal := rfl
@[simp] theorem setResult_status_aligned (e : Err) (ch : Phase) (s : State) :
    (setResult e ch s).status.aligned = s.status.aligned := rfl
@[simp] theorem setResult_status_deadband (e : Err) (ch : Phase) (s : State) :
    (setResult e ch s).status.deadband = s.status.deadband := rfl
@[simp] theorem setResult_status_vzdiv (e : Err) (ch : Phase) (s : State) :
    (setResult e ch s).status.vzdiv = s.status.vzdiv := rfl
@[simp] theorem setResult_status_wdrop (e : Err) (ch : Phase) (s : State) :
    (setResult e ch s).status.wdrop = s.status.wdrop := rfl
@[simp] theorem setResult_status_err (e : Err) (ch : Phase) (s : State) : (setResult e ch s).status.err = e := rfl
@[simp] theorem setResult_status_errCh (e : Err) (ch : Phase) (s : State) :
    (setResult e ch s).status.errCh = ch := rfl
@[simp] theorem setResult_status_lastOp (e : Err) (ch : Phase) (s : State) :
    (setResult e ch s).status.lastOp = s.status.lastOp := rfl
@[simp] theorem setResult_pending (e : Err) (ch : Phase) (s : State) : (setResult e ch s).pending = s.pending := rfl
@[simp] theorem setResult_align (e : Err) (ch : Phase) (s : State) : (setResult e ch s).align = s.align := rfl
@[simp] theorem setResult_env (e : Err) (ch : Phase) (s : State) : (setResult e ch s).env = s.env := rfl

@[simp] theorem setFatal_motion (s : State) : (setFatal s).motion = s.motion := rfl
@[simp] theorem setFatal_args (s : State) : (setFatal s).args = s.args := rfl
@[simp] theorem setFatal_motor (s : State) : (setFatal s).motor = s.motor := rfl
@[simp] theorem setFatal_calOffset (s : State) : (setFatal s).calOffset = s.calOffset := rfl
@[simp] theorem setFatal_vpid (s : State) : (setFatal s).vpid = s.vpid := rfl
@[simp] theorem setFatal_apid (s : State) : (setFatal s).apid = s.apid := rfl
@[simp] theorem setFatal_retune (s : State) : (setFatal s).retune = s.retune := rfl
@[simp] theorem setFatal_sensor (s : State) : (setFatal s).sensor = s.sensor := rfl
@[simp] theorem setFatal_duty (s : State) : (setFatal s).duty = s.duty := rfl
@[simp] theorem setFatal_drive (s : State) : (setFatal s).drive = s.drive := rfl
@[simp] theorem setFatal_ol (s : State) : (setFatal s).ol = s.ol := rfl
@[simp] theorem setFatal_status_fatal (s : State) : (setFatal s).status.fatal = true := rfl
@[simp] theorem setFatal_status_aligned (s : State) : (setFatal s).status.aligned = s.status.aligned := rfl
@[simp] theorem setFatal_status_deadband (s : State) : (setFatal s).status.deadband = s.status.deadband := rfl
@[simp] theorem setFatal_status_vzdiv (s : State) : (setFatal s).status.vzdiv = s.status.vzdiv := rfl
@[simp] theorem setFatal_status_wdrop (s : State) : (setFatal s).status.wdrop = s.status.wdrop := rfl
@[simp] theorem setFatal_status_err (s : State) : (setFatal s).status.err = s.status.err := rfl
@[simp] theorem setFatal_status_errCh (s : State) : (setFatal s).status.errCh = s.status.errCh := rfl
@[simp] theorem setFatal_status_lastOp (s : State) : (setFatal s).status.lastOp = s.status.lastOp := rfl
@[simp] theorem setFatal_pending (s : State) : (setFatal s).pending = s.pending := rfl
@[simp] theorem setFatal_align (s : State) : (setFatal s).align = s.align := rfl
@[simp] theorem setFatal_env (s : State) : (setFatal s).env = s.env := rfl

@[simp] theorem setAligned_motion (s : State) : (setAligned s).motion = s.motion := rfl
@[simp] theorem setAligned_args (s : State) : (setAligned s).args = s.args := rfl
@[simp] theorem setAligned_motor (s : State) : (setAligned s).motor = s.motor := rfl
@[simp] theorem setAligned_calOffset (s : State) : (setAligned s).calOffset = s.calOffset := rfl
@[simp] theorem setAligned_vpid (s : State) : (setAligned s).vpid = s.vpid := rfl
@[simp] theorem setAligned_apid (s : State) : (setAligned s).apid = s.apid := rfl
@[simp] theorem setAligned_retune (s : State) : (setAligned s).retune = s.retune := rfl
@[simp] theorem setAligned_sensor (s : State) : (setAligned s).sensor = s.sensor := rfl
@[simp] theorem setAligned_duty (s : State) : (setAligned s).duty = s.duty := rfl
@[simp] theorem setAligned_drive (s : State) : (setAligned s).drive = s.drive := rfl
@[simp] theorem setAligned_ol (s : State) : (setAligned s).ol = s.ol := rfl
@[simp] theorem setAligned_status_fatal (s : State) : (setAligned s).status.fatal = s.status.fatal := rfl
@[simp] theorem setAligned_status_aligned (s : State) : (setAligned s).status.aligned = true := rfl
@[simp] theorem setAligned_status_deadband (s : State) : (setAligned s).status.deadband = s.status.deadband := rfl
@[simp] theorem setAligned_status_vzdiv (s : State) : (setAligned s).status.vzdiv = s.status.vzdiv := rfl
@[simp] theorem setAligned_status_wdrop (s : State) : (setAligned s).status.wdrop = s.status.wdrop := rfl
@[simp] theorem setAligned_status_err (s : State) : (setAligned s).status.err = s.status.err := rfl
@[simp] theorem setAligned_status_errCh (s : State) : (setAligned s).status.errCh = s.status.errCh := rfl
@[simp] theorem setAligned_status_lastOp (s : State) : (setAligned s).status.lastOp = s.status.lastOp := rfl
@[simp] theorem setAligned_pending (s : State) : (setAligned s).pending = s.pending := rfl
@[simp] theorem setAligned_align (s : State) : (setAligned s).align = s.align := rfl
@[simp] theorem setAligned_env (s : State) : (setAligned s).env = s.env := rfl

@[simp] theorem setDeadband_motion (v : Bool) (s : State) : (setDeadband v s).motion = s.motion := rfl
@[simp] theorem setDeadband_args (v : Bool) (s : State) : (setDeadband v s).args = s.args := rfl
@[simp] theorem setDeadband_motor (v : Bool) (s : State) : (setDeadband v s).motor = s.motor := rfl
@[simp] theorem setDeadband_calOffset (v : Bool) (s : State) : (setDeadband v s).calOffset = s.calOffset := rfl
@[simp] theorem setDeadband_vpid (v : Bool) (s : State) : (setDeadband v s).vpid = s.vpid := rfl
@[simp] theorem setDeadband_apid (v : Bool) (s : State) : (setDeadband v s).apid = s.apid := rfl
@[simp] theorem setDeadband_retune (v : Bool) (s : State) : (setDeadband v s).retune = s.retune := rfl
@[simp] theorem setDeadband_sensor (v : Bool) (s : State) : (setDeadband v s).sensor = s.sensor := rfl
@[simp] theorem setDeadband_duty (v : Bool) (s : State) : (setDeadband v s).duty = s.duty := rfl
@[simp] theorem setDeadband_drive (v : Bool) (s : State) : (setDeadband v s).drive = s.drive := rfl
@[simp] theorem setDeadband_ol (v : Bool) (s : State) : (setDeadband v s).ol = s.ol := rfl
@[simp] theorem setDeadband_status_fatal (v : Bool) (s : State) :
    (setDeadband v s).status.fatal = s.status.fatal := rfl
@[simp] theorem setDeadband_status_aligned (v : Bool) (s : State) :
    (setDeadband v s).status.aligned = s.status.aligned := rfl
@[simp] theorem setDeadband_status_deadband (v : Bool) (s : State) : (setDeadband v s).status.deadband = v := rfl
@[simp] theorem setDeadband_status_vzdiv (v : Bool) (s : State) :
    (setDeadband v s).status.vzdiv = s.status.vzdiv := rfl
@[simp] theorem setDeadband_status_wdrop (v : Bool) (s : State) :
    (setDeadband v s).status.wdrop = s.status.wdrop := rfl
@[simp] theorem setDeadband_status_err (v : Bool) (s : State) : (setDeadband v s).status.err = s.status.err := rfl
@[simp] theorem setDeadband_status_errCh (v : Bool) (s : State) :
    (setDeadband v s).status.errCh = s.status.errCh := rfl
@[simp] theorem setDeadband_status_lastOp (v : Bool) (s : State) :
    (setDeadband v s).status.lastOp = s.status.lastOp := rfl
@[simp] theorem setDeadband_pending (v : Bool) (s : State) : (setDeadband v s).pending = s.pending := rfl
@[simp] theorem setDeadband_align (v : Bool) (s : State) : (setDeadband v s).align = s.align := rfl
@[simp] theorem setDeadband_env (v : Bool) (s : State) : (setDeadband v s).env = s.env := rfl

@[simp] theorem setWdrop_motion (s : State) : (setWdrop s).motion = s.motion := rfl
@[simp] theorem setWdrop_args (s : State) : (setWdrop s).args = s.args := rfl
@[simp] theorem setWdrop_motor (s : State) : (setWdrop s).motor = s.motor := rfl
@[simp] theorem setWdrop_calOffset (s : State) : (setWdrop s).calOffset = s.calOffset := rfl
@[simp] theorem setWdrop_vpid (s : State) : (setWdrop s).vpid = s.vpid := rfl
@[simp] theorem setWdrop_apid (s : State) : (setWdrop s).apid = s.apid := rfl
@[simp] theorem setWdrop_retune (s : State) : (setWdrop s).retune = s.retune := rfl
@[simp] theorem setWdrop_sensor (s : State) : (setWdrop s).sensor = s.sensor := rfl
@[simp] theorem setWdrop_duty (s : State) : (setWdrop s).duty = s.duty := rfl
@[simp] theorem setWdrop_drive (s : State) : (setWdrop s).drive = s.drive := rfl
@[simp] theorem setWdrop_ol (s : State) : (setWdrop s).ol = s.ol := rfl
@[simp] theorem setWdrop_status_fatal (s : State) : (setWdrop s).status.fatal = s.status.fatal := rfl
@[simp] theorem setWdrop_status_aligned (s : State) : (setWdrop s).status.aligned = s.status.aligned := rfl
@[simp] theorem setWdrop_status_deadband (s : State) : (setWdrop s).status.deadband = s.status.deadband := rfl
@[simp] theorem setWdrop_status_vzdiv (s : State) : (setWdrop s).status.vzdiv = s.status.vzdiv := rfl
@[simp] theorem setWdrop_status_wdrop (s : State) : (setWdrop s).status.wdrop = true := rfl
@[simp] theorem setWdrop_status_err (s : State) : (setWdrop s).status.err = s.status.err := rfl
@[simp] theorem setWdrop_status_errCh (s : State) : (setWdrop s).status.errCh = s.status.errCh := rfl
@[simp] theorem setWdrop_status_lastOp (s : State) : (setWdrop s).status.lastOp = s.status.lastOp := rfl
@[simp] theorem setWdrop_pending (s : State) : (setWdrop s).pending = s.pending := rfl
@[simp] theorem setWdrop_align (s : State) : (setWdrop s).align = s.align := rfl
@[simp] theorem setWdrop_env (s : State) : (setWdrop s).env = s.env := rfl

@[simp] theorem complete_motion (s : State) : (complete s).motion = s.motion := rfl
@[simp] theorem complete_args (s : State) : (complete s).args = s.args := rfl
@[simp] theorem complete_motor (s : State) : (complete s).motor = s.motor := rfl
@[simp] theorem complete_calOffset (s : State) : (complete s).calOffset = s.calOffset := rfl
@[simp] theorem complete_vpid (s : State) : (complete s).vpid = s.vpid := rfl
@[simp] theorem complete_apid (s : State) : (complete s).apid = s.apid := rfl
@[simp] theorem complete_retune (s : State) : (complete s).retune = s.retune := rfl
@[simp] theorem complete_sensor (s : State) : (complete s).sensor = s.sensor := rfl
@[simp] theorem complete_duty (s : State) : (complete s).duty = s.duty := rfl
@[simp] theorem complete_drive (s : State) : (complete s).drive = s.drive := rfl
@[simp] theorem complete_ol (s : State) : (complete s).ol = s.ol := rfl
@[simp] theorem complete_status_fatal (s : State) : (complete s).status.fatal = s.status.fatal := rfl
@[simp] theorem complete_status_aligned (s : State) : (complete s).status.aligned = s.status.aligned := rfl
@[simp] theorem complete_status_deadband (s : State) : (complete s).status.deadband = s.status.deadband := rfl
@[simp] theorem complete_status_vzdiv (s : State) : (complete s).status.vzdiv = s.status.vzdiv := rfl
@[simp] theorem complete_status_wdrop (s : State) : (complete s).status.wdrop = s.status.wdrop := rfl
@[simp] theorem complete_status_err (s : State) : (complete s).status.err = .ok := rfl
@[simp] theorem complete_status_errCh (s : State) : (complete s).status.errCh = .a := rfl
@[simp] theorem complete_status_lastOp (s : State) : (complete s).status.lastOp = s.status.lastOp := rfl
@[simp] theorem complete_pending (s : State) : (complete s).pending = s.pending := rfl
@[simp] theorem complete_align (s : State) : (complete s).align = s.align := rfl
@[simp] theorem complete_env (s : State) : (complete s).env = s.env := rfl

@[simp] theorem raise_motion (e : Err) (s : State) : (raise e s).motion = s.motion := rfl
@[simp] theorem raise_args (e : Err) (s : State) : (raise e s).args = s.args := rfl
@[simp] theorem raise_motor (e : Err) (s : State) : (raise e s).motor = s.motor := rfl
@[simp] theorem raise_calOffset (e : Err) (s : State) : (raise e s).calOffset = s.calOffset := rfl
@[simp] theorem raise_vpid (e : Err) (s : State) : (raise e s).vpid = s.vpid := rfl
@[simp] theorem raise_apid (e : Err) (s : State) : (raise e s).apid = s.apid := rfl
@[simp] theorem raise_retune (e : Err) (s : State) : (raise e s).retune = s.retune := rfl
@[simp] theorem raise_sensor (e : Err) (s : State) : (raise e s).sensor = s.sensor := rfl
@[simp] theorem raise_duty (e : Err) (s : State) : (raise e s).duty = s.duty := rfl
@[simp] theorem raise_drive (e : Err) (s : State) : (raise e s).drive = s.drive := rfl
@[simp] theorem raise_ol (e : Err) (s : State) : (raise e s).ol = s.ol := rfl
@[simp] theorem raise_status_fatal (e : Err) (s : State) : (raise e s).status.fatal = s.status.fatal := rfl
@[simp] theorem raise_status_aligned (e : Err) (s : State) : (raise e s).status.aligned = s.status.aligned := rfl
@[simp] theorem raise_status_deadband (e : Err) (s : State) : (raise e s).status.deadband = s.status.deadband := rfl
@[simp] theorem raise_status_vzdiv (e : Err) (s : State) : (raise e s).status.vzdiv = s.status.vzdiv := rfl
@[simp] theorem raise_status_wdrop (e : Err) (s : State) : (raise e s).status.wdrop = s.status.wdrop := rfl
@[simp] theorem raise_status_err (e : Err) (s : State) : (raise e s).status.err = e := rfl
@[simp] theorem raise_status_errCh (e : Err) (s : State) : (raise e s).status.errCh = .a := rfl
@[simp] theorem raise_status_lastOp (e : Err) (s : State) : (raise e s).status.lastOp = s.status.lastOp := rfl
@[simp] theorem raise_pending (e : Err) (s : State) : (raise e s).pending = s.pending := rfl
@[simp] theorem raise_align (e : Err) (s : State) : (raise e s).align = s.align := rfl
@[simp] theorem raise_env (e : Err) (s : State) : (raise e s).env = s.env := rfl

@[simp] theorem raisePwm_motion (ch : Phase) (s : State) : (raisePwm ch s).motion = s.motion := rfl
@[simp] theorem raisePwm_args (ch : Phase) (s : State) : (raisePwm ch s).args = s.args := rfl
@[simp] theorem raisePwm_motor (ch : Phase) (s : State) : (raisePwm ch s).motor = s.motor := rfl
@[simp] theorem raisePwm_calOffset (ch : Phase) (s : State) : (raisePwm ch s).calOffset = s.calOffset := rfl
@[simp] theorem raisePwm_vpid (ch : Phase) (s : State) : (raisePwm ch s).vpid = s.vpid := rfl
@[simp] theorem raisePwm_apid (ch : Phase) (s : State) : (raisePwm ch s).apid = s.apid := rfl
@[simp] theorem raisePwm_retune (ch : Phase) (s : State) : (raisePwm ch s).retune = s.retune := rfl
@[simp] theorem raisePwm_sensor (ch : Phase) (s : State) : (raisePwm ch s).sensor = s.sensor := rfl
@[simp] theorem raisePwm_duty (ch : Phase) (s : State) : (raisePwm ch s).duty = s.duty := rfl
@[simp] theorem raisePwm_drive (ch : Phase) (s : State) : (raisePwm ch s).drive = s.drive := rfl
@[simp] theorem raisePwm_ol (ch : Phase) (s : State) : (raisePwm ch s).ol = s.ol := rfl
@[simp] theorem raisePwm_status_fatal (ch : Phase) (s : State) : (raisePwm ch s).status.fatal = s.status.fatal := rfl
@[simp] theorem raisePwm_status_aligned (ch : Phase) (s : State) :
    (raisePwm ch s).status.aligned = s.status.aligned := rfl
@[simp] theorem raisePwm_status_deadband (ch : Phase) (s : State) :
    (raisePwm ch s).status.deadband = s.status.deadband := rfl
@[simp] theorem raisePwm_status_vzdiv (ch : Phase) (s : State) : (raisePwm ch s).status.vzdiv = s.status.vzdiv := rfl
@[simp] theorem raisePwm_status_wdrop (ch : Phase) (s : State) : (raisePwm ch s).status.wdrop = s.status.wdrop := rfl
@[simp] theorem raisePwm_status_err (ch : Phase) (s : State) : (raisePwm ch s).status.err = .pwm := rfl
@[simp] theorem raisePwm_status_errCh (ch : Phase) (s : State) : (raisePwm ch s).status.errCh = ch := rfl
@[simp] theorem raisePwm_status_lastOp (ch : Phase) (s : State) :
    (raisePwm ch s).status.lastOp = s.status.lastOp := rfl
@[simp] theorem raisePwm_pending (ch : Phase) (s : State) : (raisePwm ch s).pending = s.pending := rfl
@[simp] theorem raisePwm_align (ch : Phase) (s : State) : (raisePwm ch s).align = s.align := rfl
@[simp] theorem raisePwm_env (ch : Phase) (s : State) : (raisePwm ch s).env = s.env := rfl

@[simp] theorem fatal_motion (e : Err) (s : State) : (fatal e s).motion = s.motion := rfl
@[simp] theorem fatal_args (e : Err) (s : State) : (fatal e s).args = s.args := rfl
@[simp] theorem fatal_motor (e : Err) (s : State) : (fatal e s).motor = s.motor := rfl
@[simp] theorem fatal_calOffset (e : Err) (s : State) : (fatal e s).calOffset = s.calOffset := rfl
@[simp] theorem fatal_vpid (e : Err) (s : State) : (fatal e s).vpid = s.vpid := rfl
@[simp] theorem fatal_apid (e : Err) (s : State) : (fatal e s).apid = s.apid := rfl
@[simp] theorem fatal_retune (e : Err) (s : State) : (fatal e s).retune = s.retune := rfl
@[simp] theorem fatal_sensor (e : Err) (s : State) : (fatal e s).sensor = s.sensor := rfl
@[simp] theorem fatal_duty (e : Err) (s : State) : (fatal e s).duty = s.duty := rfl
@[simp] theorem fatal_drive (e : Err) (s : State) : (fatal e s).drive = s.drive := rfl
@[simp] theorem fatal_ol (e : Err) (s : State) : (fatal e s).ol = s.ol := rfl
@[simp] theorem fatal_status_fatal (e : Err) (s : State) : (fatal e s).status.fatal = true := rfl
@[simp] theorem fatal_status_aligned (e : Err) (s : State) : (fatal e s).status.aligned = s.status.aligned := rfl
@[simp] theorem fatal_status_deadband (e : Err) (s : State) : (fatal e s).status.deadband = s.status.deadband := rfl
@[simp] theorem fatal_status_vzdiv (e : Err) (s : State) : (fatal e s).status.vzdiv = s.status.vzdiv := rfl
@[simp] theorem fatal_status_wdrop (e : Err) (s : State) : (fatal e s).status.wdrop = s.status.wdrop := rfl
@[simp] theorem fatal_status_err (e : Err) (s : State) : (fatal e s).status.err = e := rfl
@[simp] theorem fatal_status_errCh (e : Err) (s : State) : (fatal e s).status.errCh = .a := rfl
@[simp] theorem fatal_status_lastOp (e : Err) (s : State) : (fatal e s).status.lastOp = s.status.lastOp := rfl
@[simp] theorem fatal_pending (e : Err) (s : State) : (fatal e s).pending = s.pending := rfl
@[simp] theorem fatal_align (e : Err) (s : State) : (fatal e s).align = s.align := rfl
@[simp] theorem fatal_env (e : Err) (s : State) : (fatal e s).env = s.env := rfl

@[simp] theorem logPort_motion (p : PortAccess) (s : State) : (logPort p s).motion = s.motion := rfl
@[simp] theorem logPort_args (p : PortAccess) (s : State) : (logPort p s).args = s.args := rfl
@[simp] theorem logPort_motor (p : PortAccess) (s : State) : (logPort p s).motor = s.motor := rfl
@[simp] theorem logPort_calOffset (p : PortAccess) (s : State) : (logPort p s).calOffset = s.calOffset := rfl
@[simp] theorem logPort_vpid (p : PortAccess) (s : State) : (logPort p s).vpid = s.vpid := rfl
@[simp] theorem logPort_apid (p : PortAccess) (s : State) : (logPort p s).apid = s.apid := rfl
@[simp] theorem logPort_retune (p : PortAccess) (s : State) : (logPort p s).retune = s.retune := rfl
@[simp] theorem logPort_sensor (p : PortAccess) (s : State) : (logPort p s).sensor = s.sensor := rfl
@[simp] theorem logPort_duty (p : PortAccess) (s : State) : (logPort p s).duty = s.duty := rfl
@[simp] theorem logPort_drive (p : PortAccess) (s : State) : (logPort p s).drive = s.drive := rfl
@[simp] theorem logPort_ol (p : PortAccess) (s : State) : (logPort p s).ol = s.ol := rfl
@[simp] theorem logPort_status (p : PortAccess) (s : State) : (logPort p s).status = s.status := rfl
@[simp] theorem logPort_pending (p : PortAccess) (s : State) : (logPort p s).pending = s.pending := rfl
@[simp] theorem logPort_align (p : PortAccess) (s : State) : (logPort p s).align = s.align := rfl
@[simp] theorem logPort_env_agenda (p : PortAccess) (s : State) : (logPort p s).env.agenda = s.env.agenda := rfl
@[simp] theorem logPort_env_ports (p : PortAccess) (s : State) : (logPort p s).env.ports = s.env.ports := rfl
@[simp] theorem logPort_env_portLog (p : PortAccess) (s : State) :
    (logPort p s).env.portLog = s.env.portLog ++ [p] := rfl
@[simp] theorem logPort_env_outputs (p : PortAccess) (s : State) : (logPort p s).env.outputs = s.env.outputs := rfl
@[simp] theorem logPort_env_response (p : PortAccess) (s : State) : (logPort p s).env.response = s.env.response := rfl
@[simp] theorem logPort_env_trig (p : PortAccess) (s : State) : (logPort p s).env.trig = s.env.trig := rfl

@[simp] theorem resetBlock_motion (s : State) : (resetBlock s).motion = State.reset.motion := rfl
@[simp] theorem resetBlock_args (s : State) : (resetBlock s).args = State.reset.args := rfl
@[simp] theorem resetBlock_motor (s : State) : (resetBlock s).motor = State.reset.motor := rfl
@[simp] theorem resetBlock_calOffset (s : State) : (resetBlock s).calOffset = State.reset.calOffset := rfl
@[simp] theorem resetBlock_vpid (s : State) : (resetBlock s).vpid = State.reset.vpid := rfl
@[simp] theorem resetBlock_apid (s : State) : (resetBlock s).apid = State.reset.apid := rfl
@[simp] theorem resetBlock_retune (s : State) : (resetBlock s).retune = State.reset.retune := rfl
@[simp] theorem resetBlock_sensor (s : State) : (resetBlock s).sensor = State.reset.sensor := rfl
@[simp] theorem resetBlock_duty (s : State) : (resetBlock s).duty = State.reset.duty := rfl
@[simp] theorem resetBlock_drive (s : State) : (resetBlock s).drive = State.reset.drive := rfl
@[simp] theorem resetBlock_ol (s : State) : (resetBlock s).ol = State.reset.ol := rfl
@[simp] theorem resetBlock_status (s : State) : (resetBlock s).status = State.reset.status := rfl
@[simp] theorem resetBlock_pending (s : State) : (resetBlock s).pending = State.reset.pending := rfl
@[simp] theorem resetBlock_align (s : State) : (resetBlock s).align = State.reset.align := rfl
@[simp] theorem resetBlock_env_agenda (s : State) : (resetBlock s).env.agenda = s.env.agenda := rfl
@[simp] theorem resetBlock_env_ports (s : State) : (resetBlock s).env.ports = s.env.ports := rfl
@[simp] theorem resetBlock_env_portLog (s : State) : (resetBlock s).env.portLog = s.env.portLog := rfl
@[simp] theorem resetBlock_env_outputs (s : State) : (resetBlock s).env.outputs = Outputs.unknown := rfl
@[simp] theorem resetBlock_env_response (s : State) : (resetBlock s).env.response = s.env.response := rfl
@[simp] theorem resetBlock_env_trig (s : State) : (resetBlock s).env.trig = s.env.trig := rfl

@[simp] theorem acceptDuty_motion (ch : Phase) (p : B32) (s : State) : (acceptDuty ch p s).motion = s.motion := rfl
@[simp] theorem acceptDuty_args (ch : Phase) (p : B32) (s : State) : (acceptDuty ch p s).args = s.args := rfl
@[simp] theorem acceptDuty_motor (ch : Phase) (p : B32) (s : State) : (acceptDuty ch p s).motor = s.motor := rfl
@[simp] theorem acceptDuty_calOffset (ch : Phase) (p : B32) (s : State) :
    (acceptDuty ch p s).calOffset = s.calOffset := rfl
@[simp] theorem acceptDuty_vpid (ch : Phase) (p : B32) (s : State) : (acceptDuty ch p s).vpid = s.vpid := rfl
@[simp] theorem acceptDuty_apid (ch : Phase) (p : B32) (s : State) : (acceptDuty ch p s).apid = s.apid := rfl
@[simp] theorem acceptDuty_retune (ch : Phase) (p : B32) (s : State) : (acceptDuty ch p s).retune = s.retune := rfl
@[simp] theorem acceptDuty_sensor (ch : Phase) (p : B32) (s : State) : (acceptDuty ch p s).sensor = s.sensor := rfl
@[simp] theorem acceptDuty_duty (ch : Phase) (p : B32) (s : State) : (acceptDuty ch p s).duty = s.duty.set ch p := rfl
@[simp] theorem acceptDuty_drive (ch : Phase) (p : B32) (s : State) : (acceptDuty ch p s).drive = s.drive := rfl
@[simp] theorem acceptDuty_ol (ch : Phase) (p : B32) (s : State) : (acceptDuty ch p s).ol = s.ol := rfl
@[simp] theorem acceptDuty_status (ch : Phase) (p : B32) (s : State) : (acceptDuty ch p s).status = s.status := rfl
@[simp] theorem acceptDuty_pending (ch : Phase) (p : B32) (s : State) : (acceptDuty ch p s).pending = s.pending := rfl
@[simp] theorem acceptDuty_align (ch : Phase) (p : B32) (s : State) : (acceptDuty ch p s).align = s.align := rfl
@[simp] theorem acceptDuty_env_agenda (ch : Phase) (p : B32) (s : State) :
    (acceptDuty ch p s).env.agenda = s.env.agenda := rfl
@[simp] theorem acceptDuty_env_ports (ch : Phase) (p : B32) (s : State) :
    (acceptDuty ch p s).env.ports = s.env.ports := rfl
@[simp] theorem acceptDuty_env_portLog (ch : Phase) (p : B32) (s : State) :
    (acceptDuty ch p s).env.portLog = s.env.portLog := rfl
@[simp] theorem acceptDuty_env_outputs (ch : Phase) (p : B32) (s : State) :
    (acceptDuty ch p s).env.outputs = s.env.outputs.set ch (.duty p) := rfl
@[simp] theorem acceptDuty_env_response (ch : Phase) (p : B32) (s : State) :
    (acceptDuty ch p s).env.response = s.env.response := rfl
@[simp] theorem acceptDuty_env_trig (ch : Phase) (p : B32) (s : State) :
    (acceptDuty ch p s).env.trig = s.env.trig := rfl

@[simp] theorem loseOutput_motion (ch : Phase) (s : State) : (loseOutput ch s).motion = s.motion := rfl
@[simp] theorem loseOutput_args (ch : Phase) (s : State) : (loseOutput ch s).args = s.args := rfl
@[simp] theorem loseOutput_motor (ch : Phase) (s : State) : (loseOutput ch s).motor = s.motor := rfl
@[simp] theorem loseOutput_calOffset (ch : Phase) (s : State) : (loseOutput ch s).calOffset = s.calOffset := rfl
@[simp] theorem loseOutput_vpid (ch : Phase) (s : State) : (loseOutput ch s).vpid = s.vpid := rfl
@[simp] theorem loseOutput_apid (ch : Phase) (s : State) : (loseOutput ch s).apid = s.apid := rfl
@[simp] theorem loseOutput_retune (ch : Phase) (s : State) : (loseOutput ch s).retune = s.retune := rfl
@[simp] theorem loseOutput_sensor (ch : Phase) (s : State) : (loseOutput ch s).sensor = s.sensor := rfl
@[simp] theorem loseOutput_duty (ch : Phase) (s : State) : (loseOutput ch s).duty = s.duty := rfl
@[simp] theorem loseOutput_drive (ch : Phase) (s : State) : (loseOutput ch s).drive = s.drive := rfl
@[simp] theorem loseOutput_ol (ch : Phase) (s : State) : (loseOutput ch s).ol = s.ol := rfl
@[simp] theorem loseOutput_status (ch : Phase) (s : State) : (loseOutput ch s).status = s.status := rfl
@[simp] theorem loseOutput_pending (ch : Phase) (s : State) : (loseOutput ch s).pending = s.pending := rfl
@[simp] theorem loseOutput_align (ch : Phase) (s : State) : (loseOutput ch s).align = s.align := rfl
@[simp] theorem loseOutput_env_agenda (ch : Phase) (s : State) : (loseOutput ch s).env.agenda = s.env.agenda := rfl
@[simp] theorem loseOutput_env_ports (ch : Phase) (s : State) : (loseOutput ch s).env.ports = s.env.ports := rfl
@[simp] theorem loseOutput_env_portLog (ch : Phase) (s : State) : (loseOutput ch s).env.portLog = s.env.portLog := rfl
@[simp] theorem loseOutput_env_outputs (ch : Phase) (s : State) :
    (loseOutput ch s).env.outputs = s.env.outputs.set ch .unknown := rfl
@[simp] theorem loseOutput_env_response (ch : Phase) (s : State) :
    (loseOutput ch s).env.response = s.env.response := rfl
@[simp] theorem loseOutput_env_trig (ch : Phase) (s : State) : (loseOutput ch s).env.trig = s.env.trig := rfl

@[simp] theorem record_motion (a : B32) (t : U64) (s : State) : (record a t s).motion = s.motion := rfl
@[simp] theorem record_args (a : B32) (t : U64) (s : State) : (record a t s).args = s.args := rfl
@[simp] theorem record_motor (a : B32) (t : U64) (s : State) : (record a t s).motor = s.motor := rfl
@[simp] theorem record_calOffset (a : B32) (t : U64) (s : State) : (record a t s).calOffset = s.calOffset := rfl
@[simp] theorem record_vpid (a : B32) (t : U64) (s : State) : (record a t s).vpid = s.vpid := rfl
@[simp] theorem record_apid (a : B32) (t : U64) (s : State) : (record a t s).apid = s.apid := rfl
@[simp] theorem record_retune (a : B32) (t : U64) (s : State) : (record a t s).retune = s.retune := rfl
@[simp] theorem record_sensor (a : B32) (t : U64) (s : State) : (record a t s).sensor = s.sensor.record a t := rfl
@[simp] theorem record_duty (a : B32) (t : U64) (s : State) : (record a t s).duty = s.duty := rfl
@[simp] theorem record_drive (a : B32) (t : U64) (s : State) : (record a t s).drive = s.drive := rfl
@[simp] theorem record_ol (a : B32) (t : U64) (s : State) : (record a t s).ol = s.ol := rfl
@[simp] theorem record_status_fatal (a : B32) (t : U64) (s : State) :
    (record a t s).status.fatal = s.status.fatal := rfl
@[simp] theorem record_status_aligned (a : B32) (t : U64) (s : State) :
    (record a t s).status.aligned = s.status.aligned := rfl
@[simp] theorem record_status_deadband (a : B32) (t : U64) (s : State) :
    (record a t s).status.deadband = s.status.deadband := rfl
@[simp] theorem record_status_vzdiv (a : B32) (t : U64) (s : State) :
    (record a t s).status.vzdiv = decide (s.sensor.dt = 0#64) := rfl
@[simp] theorem record_status_wdrop (a : B32) (t : U64) (s : State) :
    (record a t s).status.wdrop = s.status.wdrop := rfl
@[simp] theorem record_status_err (a : B32) (t : U64) (s : State) : (record a t s).status.err = s.status.err := rfl
@[simp] theorem record_status_errCh (a : B32) (t : U64) (s : State) :
    (record a t s).status.errCh = s.status.errCh := rfl
@[simp] theorem record_status_lastOp (a : B32) (t : U64) (s : State) :
    (record a t s).status.lastOp = s.status.lastOp := rfl
@[simp] theorem record_pending (a : B32) (t : U64) (s : State) : (record a t s).pending = s.pending := rfl
@[simp] theorem record_align (a : B32) (t : U64) (s : State) : (record a t s).align = s.align := rfl
@[simp] theorem record_env (a : B32) (t : U64) (s : State) : (record a t s).env = s.env := rfl

@[simp] theorem setDrive_motion (q d th : B32) (s : State) : (setDrive q d th s).motion = s.motion := rfl
@[simp] theorem setDrive_args (q d th : B32) (s : State) : (setDrive q d th s).args = s.args := rfl
@[simp] theorem setDrive_motor (q d th : B32) (s : State) : (setDrive q d th s).motor = s.motor := rfl
@[simp] theorem setDrive_calOffset (q d th : B32) (s : State) : (setDrive q d th s).calOffset = s.calOffset := rfl
@[simp] theorem setDrive_vpid (q d th : B32) (s : State) : (setDrive q d th s).vpid = s.vpid := rfl
@[simp] theorem setDrive_apid (q d th : B32) (s : State) : (setDrive q d th s).apid = s.apid := rfl
@[simp] theorem setDrive_retune (q d th : B32) (s : State) : (setDrive q d th s).retune = s.retune := rfl
@[simp] theorem setDrive_sensor (q d th : B32) (s : State) : (setDrive q d th s).sensor = s.sensor := rfl
@[simp] theorem setDrive_duty (q d th : B32) (s : State) : (setDrive q d th s).duty = s.duty := rfl
@[simp] theorem setDrive_drive (q d th : B32) (s : State) : (setDrive q d th s).drive = ⟨q, d, th⟩ := rfl
@[simp] theorem setDrive_ol (q d th : B32) (s : State) : (setDrive q d th s).ol = s.ol := rfl
@[simp] theorem setDrive_status (q d th : B32) (s : State) : (setDrive q d th s).status = s.status := rfl
@[simp] theorem setDrive_pending (q d th : B32) (s : State) : (setDrive q d th s).pending = s.pending := rfl
@[simp] theorem setDrive_align (q d th : B32) (s : State) : (setDrive q d th s).align = s.align := rfl
@[simp] theorem setDrive_env (q d th : B32) (s : State) : (setDrive q d th s).env = s.env := rfl

@[simp] theorem setModeTarget_motion_mode (m : Mode) (v : B32) (s : State) :
    (setModeTarget m v s).motion.mode = m := rfl
@[simp] theorem setModeTarget_motion_target (m : Mode) (v : B32) (s : State) :
    (setModeTarget m v s).motion.target = v := rfl
@[simp] theorem setModeTarget_motion_lpLow (m : Mode) (v : B32) (s : State) :
    (setModeTarget m v s).motion.lpLow = s.motion.lpLow := rfl
@[simp] theorem setModeTarget_motion_lpHigh (m : Mode) (v : B32) (s : State) :
    (setModeTarget m v s).motion.lpHigh = s.motion.lpHigh := rfl
@[simp] theorem setModeTarget_motion_rSteps (m : Mode) (v : B32) (s : State) :
    (setModeTarget m v s).motion.rSteps = s.motion.rSteps := rfl
@[simp] theorem setModeTarget_motion_rRps (m : Mode) (v : B32) (s : State) :
    (setModeTarget m v s).motion.rRps = s.motion.rRps := rfl
@[simp] theorem setModeTarget_args (m : Mode) (v : B32) (s : State) : (setModeTarget m v s).args = s.args := rfl
@[simp] theorem setModeTarget_motor (m : Mode) (v : B32) (s : State) : (setModeTarget m v s).motor = s.motor := rfl
@[simp] theorem setModeTarget_calOffset (m : Mode) (v : B32) (s : State) :
    (setModeTarget m v s).calOffset = s.calOffset := rfl
@[simp] theorem setModeTarget_vpid (m : Mode) (v : B32) (s : State) : (setModeTarget m v s).vpid = s.vpid := rfl
@[simp] theorem setModeTarget_apid (m : Mode) (v : B32) (s : State) : (setModeTarget m v s).apid = s.apid := rfl
@[simp] theorem setModeTarget_retune (m : Mode) (v : B32) (s : State) : (setModeTarget m v s).retune = s.retune := rfl
@[simp] theorem setModeTarget_sensor (m : Mode) (v : B32) (s : State) : (setModeTarget m v s).sensor = s.sensor := rfl
@[simp] theorem setModeTarget_duty (m : Mode) (v : B32) (s : State) : (setModeTarget m v s).duty = s.duty := rfl
@[simp] theorem setModeTarget_drive (m : Mode) (v : B32) (s : State) : (setModeTarget m v s).drive = s.drive := rfl
@[simp] theorem setModeTarget_ol (m : Mode) (v : B32) (s : State) : (setModeTarget m v s).ol = s.ol := rfl
@[simp] theorem setModeTarget_status (m : Mode) (v : B32) (s : State) : (setModeTarget m v s).status = s.status := rfl
@[simp] theorem setModeTarget_pending (m : Mode) (v : B32) (s : State) :
    (setModeTarget m v s).pending = s.pending := rfl
@[simp] theorem setModeTarget_align (m : Mode) (v : B32) (s : State) : (setModeTarget m v s).align = s.align := rfl
@[simp] theorem setModeTarget_env (m : Mode) (v : B32) (s : State) : (setModeTarget m v s).env = s.env := rfl

@[simp] theorem copyGains_motion (s : State) : (copyGains s).motion = s.motion := rfl
@[simp] theorem copyGains_args (s : State) : (copyGains s).args = s.args := rfl
@[simp] theorem copyGains_motor (s : State) : (copyGains s).motor = s.motor := rfl
@[simp] theorem copyGains_calOffset (s : State) : (copyGains s).calOffset = s.calOffset := rfl
@[simp] theorem copyGains_vpid (s : State) :
    (copyGains s).vpid = s.vpid.withGains s.retune.vkp s.retune.vki s.retune.vkd := rfl
@[simp] theorem copyGains_apid (s : State) :
    (copyGains s).apid = s.apid.withGains s.retune.akp s.retune.aki s.retune.akd := rfl
@[simp] theorem copyGains_retune (s : State) : (copyGains s).retune = s.retune := rfl
@[simp] theorem copyGains_sensor (s : State) : (copyGains s).sensor = s.sensor := rfl
@[simp] theorem copyGains_duty (s : State) : (copyGains s).duty = s.duty := rfl
@[simp] theorem copyGains_drive (s : State) : (copyGains s).drive = s.drive := rfl
@[simp] theorem copyGains_ol (s : State) : (copyGains s).ol = s.ol := rfl
@[simp] theorem copyGains_status (s : State) : (copyGains s).status = s.status := rfl
@[simp] theorem copyGains_pending (s : State) : (copyGains s).pending = s.pending := rfl
@[simp] theorem copyGains_align (s : State) : (copyGains s).align = s.align := rfl
@[simp] theorem copyGains_env (s : State) : (copyGains s).env = s.env := rfl

@[simp] theorem setGeometry_motion_mode (n : BitVec 16) (s : State) :
    (setGeometry n s).motion.mode = s.motion.mode := by simp [setGeometry]
@[simp] theorem setGeometry_motion_target (n : BitVec 16) (s : State) :
    (setGeometry n s).motion.target = s.motion.target := by simp [setGeometry]
@[simp] theorem setGeometry_motion_lpLow (n : BitVec 16) (s : State) :
    (setGeometry n s).motion.lpLow = s.motion.lpLow := by simp [setGeometry]
@[simp] theorem setGeometry_motion_lpHigh (n : BitVec 16) (s : State) :
    (setGeometry n s).motion.lpHigh = s.motion.lpHigh := by simp [setGeometry]
@[simp] theorem setGeometry_motion_rSteps (n : BitVec 16) (s : State) :
    (setGeometry n s).motion.rSteps = n.setWidth 32 := by simp [setGeometry]
@[simp] theorem setGeometry_motion_rRps (n : BitVec 16) (s : State) :
    (setGeometry n s).motion.rRps = F32.div Config.twoPi32 (F32.ofNat n.toNat) := by simp [setGeometry]
@[simp] theorem setGeometry_args (n : BitVec 16) (s : State) :
    (setGeometry n s).args = s.args := by simp [setGeometry]
@[simp] theorem setGeometry_motor (n : BitVec 16) (s : State) :
    (setGeometry n s).motor = s.motor := by simp [setGeometry]
@[simp] theorem setGeometry_calOffset (n : BitVec 16) (s : State) :
    (setGeometry n s).calOffset = s.calOffset := by simp [setGeometry]
@[simp] theorem setGeometry_vpid (n : BitVec 16) (s : State) :
    (setGeometry n s).vpid = s.vpid := by simp [setGeometry]
@[simp] theorem setGeometry_apid (n : BitVec 16) (s : State) :
    (setGeometry n s).apid = s.apid := by simp [setGeometry]
@[simp] theorem setGeometry_retune (n : BitVec 16) (s : State) :
    (setGeometry n s).retune = s.retune := by simp [setGeometry]
@[simp] theorem setGeometry_sensor (n : BitVec 16) (s : State) :
    (setGeometry n s).sensor = s.sensor := by simp [setGeometry]
@[simp] theorem setGeometry_duty (n : BitVec 16) (s : State) :
    (setGeometry n s).duty = s.duty := by simp [setGeometry]
@[simp] theorem setGeometry_drive (n : BitVec 16) (s : State) :
    (setGeometry n s).drive = s.drive := by simp [setGeometry]
@[simp] theorem setGeometry_ol (n : BitVec 16) (s : State) : (setGeometry n s).ol = s.ol := by simp [setGeometry]
@[simp] theorem setGeometry_status (n : BitVec 16) (s : State) :
    (setGeometry n s).status = s.status := by simp [setGeometry]
@[simp] theorem setGeometry_pending (n : BitVec 16) (s : State) :
    (setGeometry n s).pending = s.pending := by simp [setGeometry]
@[simp] theorem setGeometry_align (n : BitVec 16) (s : State) :
    (setGeometry n s).align = s.align := by simp [setGeometry]
@[simp] theorem setGeometry_env (n : BitVec 16) (s : State) : (setGeometry n s).env = s.env := by simp [setGeometry]

@[simp] theorem setLimits_motion_mode (lo hi : B32) (s : State) :
    (setLimits lo hi s).motion.mode = s.motion.mode := rfl
@[simp] theorem setLimits_motion_target (lo hi : B32) (s : State) :
    (setLimits lo hi s).motion.target = s.motion.target := rfl
@[simp] theorem setLimits_motion_lpLow (lo hi : B32) (s : State) : (setLimits lo hi s).motion.lpLow = lo := rfl
@[simp] theorem setLimits_motion_lpHigh (lo hi : B32) (s : State) : (setLimits lo hi s).motion.lpHigh = hi := rfl
@[simp] theorem setLimits_motion_rSteps (lo hi : B32) (s : State) :
    (setLimits lo hi s).motion.rSteps = s.motion.rSteps := rfl
@[simp] theorem setLimits_motion_rRps (lo hi : B32) (s : State) :
    (setLimits lo hi s).motion.rRps = s.motion.rRps := rfl
@[simp] theorem setLimits_args (lo hi : B32) (s : State) : (setLimits lo hi s).args = s.args := rfl
@[simp] theorem setLimits_motor (lo hi : B32) (s : State) : (setLimits lo hi s).motor = s.motor := rfl
@[simp] theorem setLimits_calOffset (lo hi : B32) (s : State) : (setLimits lo hi s).calOffset = s.calOffset := rfl
@[simp] theorem setLimits_vpid (lo hi : B32) (s : State) : (setLimits lo hi s).vpid = s.vpid := rfl
@[simp] theorem setLimits_apid (lo hi : B32) (s : State) : (setLimits lo hi s).apid = s.apid := rfl
@[simp] theorem setLimits_retune (lo hi : B32) (s : State) : (setLimits lo hi s).retune = s.retune := rfl
@[simp] theorem setLimits_sensor (lo hi : B32) (s : State) : (setLimits lo hi s).sensor = s.sensor := rfl
@[simp] theorem setLimits_duty (lo hi : B32) (s : State) : (setLimits lo hi s).duty = s.duty := rfl
@[simp] theorem setLimits_drive (lo hi : B32) (s : State) : (setLimits lo hi s).drive = s.drive := rfl
@[simp] theorem setLimits_ol (lo hi : B32) (s : State) : (setLimits lo hi s).ol = s.ol := rfl
@[simp] theorem setLimits_status (lo hi : B32) (s : State) : (setLimits lo hi s).status = s.status := rfl
@[simp] theorem setLimits_pending (lo hi : B32) (s : State) : (setLimits lo hi s).pending = s.pending := rfl
@[simp] theorem setLimits_align (lo hi : B32) (s : State) : (setLimits lo hi s).align = s.align := rfl
@[simp] theorem setLimits_env (lo hi : B32) (s : State) : (setLimits lo hi s).env = s.env := rfl

@[simp] theorem retarget_motion_mode (s : State) : (retarget s).motion.mode = s.motion.mode := by simp [retarget]
@[simp] theorem retarget_motion_target (s : State) :
    (retarget s).motion.target = detent s.sensor.cont s.motion.rRps := by simp [retarget]
@[simp] theorem retarget_motion_lpLow (s : State) : (retarget s).motion.lpLow = s.motion.lpLow := by simp [retarget]
@[simp] theorem retarget_motion_lpHigh (s : State) :
    (retarget s).motion.lpHigh = s.motion.lpHigh := by simp [retarget]
@[simp] theorem retarget_motion_rSteps (s : State) :
    (retarget s).motion.rSteps = s.motion.rSteps := by simp [retarget]
@[simp] theorem retarget_motion_rRps (s : State) : (retarget s).motion.rRps = s.motion.rRps := by simp [retarget]
@[simp] theorem retarget_args (s : State) : (retarget s).args = s.args := by simp [retarget]
@[simp] theorem retarget_motor (s : State) : (retarget s).motor = s.motor := by simp [retarget]
@[simp] theorem retarget_calOffset (s : State) : (retarget s).calOffset = s.calOffset := by simp [retarget]
@[simp] theorem retarget_vpid (s : State) : (retarget s).vpid = s.vpid := by simp [retarget]
@[simp] theorem retarget_apid (s : State) : (retarget s).apid = s.apid := by simp [retarget]
@[simp] theorem retarget_retune (s : State) : (retarget s).retune = s.retune := by simp [retarget]
@[simp] theorem retarget_sensor (s : State) : (retarget s).sensor = s.sensor := by simp [retarget]
@[simp] theorem retarget_duty (s : State) : (retarget s).duty = s.duty := by simp [retarget]
@[simp] theorem retarget_drive (s : State) : (retarget s).drive = s.drive := by simp [retarget]
@[simp] theorem retarget_ol (s : State) : (retarget s).ol = s.ol := by simp [retarget]
@[simp] theorem retarget_status (s : State) : (retarget s).status = s.status := by simp [retarget]
@[simp] theorem retarget_pending (s : State) : (retarget s).pending = s.pending := by simp [retarget]
@[simp] theorem retarget_align (s : State) : (retarget s).align = s.align := by simp [retarget]
@[simp] theorem retarget_env (s : State) : (retarget s).env = s.env := by simp [retarget]

@[simp] theorem deadbandNoOp_motion (s : State) : (deadbandNoOp s).motion = s.motion := rfl
@[simp] theorem deadbandNoOp_args (s : State) : (deadbandNoOp s).args = s.args := rfl
@[simp] theorem deadbandNoOp_motor (s : State) : (deadbandNoOp s).motor = s.motor := rfl
@[simp] theorem deadbandNoOp_calOffset (s : State) : (deadbandNoOp s).calOffset = s.calOffset := rfl
@[simp] theorem deadbandNoOp_vpid (s : State) : (deadbandNoOp s).vpid = s.vpid := rfl
@[simp] theorem deadbandNoOp_apid (s : State) : (deadbandNoOp s).apid = s.apid := rfl
@[simp] theorem deadbandNoOp_retune (s : State) : (deadbandNoOp s).retune = s.retune := rfl
@[simp] theorem deadbandNoOp_sensor (s : State) : (deadbandNoOp s).sensor = s.sensor := rfl
@[simp] theorem deadbandNoOp_duty (s : State) : (deadbandNoOp s).duty = s.duty := rfl
@[simp] theorem deadbandNoOp_drive (s : State) : (deadbandNoOp s).drive = s.drive := rfl
@[simp] theorem deadbandNoOp_ol (s : State) : (deadbandNoOp s).ol = s.ol := rfl
@[simp] theorem deadbandNoOp_status_fatal (s : State) : (deadbandNoOp s).status.fatal = s.status.fatal := rfl
@[simp] theorem deadbandNoOp_status_aligned (s : State) : (deadbandNoOp s).status.aligned = s.status.aligned := rfl
@[simp] theorem deadbandNoOp_status_deadband (s : State) : (deadbandNoOp s).status.deadband = true := rfl
@[simp] theorem deadbandNoOp_status_vzdiv (s : State) : (deadbandNoOp s).status.vzdiv = s.status.vzdiv := rfl
@[simp] theorem deadbandNoOp_status_wdrop (s : State) : (deadbandNoOp s).status.wdrop = s.status.wdrop := rfl
@[simp] theorem deadbandNoOp_status_err (s : State) : (deadbandNoOp s).status.err = .ok := rfl
@[simp] theorem deadbandNoOp_status_errCh (s : State) : (deadbandNoOp s).status.errCh = .a := rfl
@[simp] theorem deadbandNoOp_status_lastOp (s : State) : (deadbandNoOp s).status.lastOp = s.status.lastOp := rfl
@[simp] theorem deadbandNoOp_pending (s : State) : (deadbandNoOp s).pending = s.pending := rfl
@[simp] theorem deadbandNoOp_align (s : State) : (deadbandNoOp s).align = s.align := rfl
@[simp] theorem deadbandNoOp_env (s : State) : (deadbandNoOp s).env = s.env := rfl

@[simp] theorem enterDwell_motion (t0 : U64) (eb : B32) (s : State) : (enterDwell t0 eb s).motion = s.motion := rfl
@[simp] theorem enterDwell_args (t0 : U64) (eb : B32) (s : State) : (enterDwell t0 eb s).args = s.args := rfl
@[simp] theorem enterDwell_motor (t0 : U64) (eb : B32) (s : State) : (enterDwell t0 eb s).motor = s.motor := rfl
@[simp] theorem enterDwell_calOffset (t0 : U64) (eb : B32) (s : State) :
    (enterDwell t0 eb s).calOffset = s.calOffset := rfl
@[simp] theorem enterDwell_vpid (t0 : U64) (eb : B32) (s : State) : (enterDwell t0 eb s).vpid = s.vpid := rfl
@[simp] theorem enterDwell_apid (t0 : U64) (eb : B32) (s : State) : (enterDwell t0 eb s).apid = s.apid := rfl
@[simp] theorem enterDwell_retune (t0 : U64) (eb : B32) (s : State) : (enterDwell t0 eb s).retune = s.retune := rfl
@[simp] theorem enterDwell_sensor (t0 : U64) (eb : B32) (s : State) : (enterDwell t0 eb s).sensor = s.sensor := rfl
@[simp] theorem enterDwell_duty (t0 : U64) (eb : B32) (s : State) : (enterDwell t0 eb s).duty = s.duty := rfl
@[simp] theorem enterDwell_drive (t0 : U64) (eb : B32) (s : State) : (enterDwell t0 eb s).drive = s.drive := rfl
@[simp] theorem enterDwell_ol (t0 : U64) (eb : B32) (s : State) : (enterDwell t0 eb s).ol = s.ol := rfl
@[simp] theorem enterDwell_status (t0 : U64) (eb : B32) (s : State) : (enterDwell t0 eb s).status = s.status := rfl
@[simp] theorem enterDwell_pending (t0 : U64) (eb : B32) (s : State) : (enterDwell t0 eb s).pending = s.pending := rfl
@[simp] theorem enterDwell_align (t0 : U64) (eb : B32) (s : State) :
    (enterDwell t0 eb s).align = ⟨.dwell, t0, eb⟩ := rfl
@[simp] theorem enterDwell_env (t0 : U64) (eb : B32) (s : State) : (enterDwell t0 eb s).env = s.env := rfl

@[simp] theorem leaveDwell_motion (s : State) : (leaveDwell s).motion = s.motion := rfl
@[simp] theorem leaveDwell_args (s : State) : (leaveDwell s).args = s.args := rfl
@[simp] theorem leaveDwell_motor (s : State) : (leaveDwell s).motor = s.motor := rfl
@[simp] theorem leaveDwell_calOffset (s : State) : (leaveDwell s).calOffset = s.calOffset := rfl
@[simp] theorem leaveDwell_vpid (s : State) : (leaveDwell s).vpid = s.vpid := rfl
@[simp] theorem leaveDwell_apid (s : State) : (leaveDwell s).apid = s.apid := rfl
@[simp] theorem leaveDwell_retune (s : State) : (leaveDwell s).retune = s.retune := rfl
@[simp] theorem leaveDwell_sensor (s : State) : (leaveDwell s).sensor = s.sensor := rfl
@[simp] theorem leaveDwell_duty (s : State) : (leaveDwell s).duty = s.duty := rfl
@[simp] theorem leaveDwell_drive (s : State) : (leaveDwell s).drive = s.drive := rfl
@[simp] theorem leaveDwell_ol (s : State) : (leaveDwell s).ol = s.ol := rfl
@[simp] theorem leaveDwell_status (s : State) : (leaveDwell s).status = s.status := rfl
@[simp] theorem leaveDwell_pending (s : State) : (leaveDwell s).pending = s.pending := rfl
@[simp] theorem leaveDwell_align_phase (s : State) : (leaveDwell s).align.phase = .idle := rfl
@[simp] theorem leaveDwell_align_t0 (s : State) : (leaveDwell s).align.t0 = s.align.t0 := rfl
@[simp] theorem leaveDwell_align_eb (s : State) : (leaveDwell s).align.eb = s.align.eb := rfl
@[simp] theorem leaveDwell_env (s : State) : (leaveDwell s).env = s.env := rfl

@[simp] theorem alignSucceed_motion (e : B32) (s : State) :
    (alignSucceed e s).motion = s.motion := by simp [alignSucceed]
@[simp] theorem alignSucceed_args (e : B32) (s : State) : (alignSucceed e s).args = s.args := by simp [alignSucceed]
@[simp] theorem alignSucceed_motor (e : B32) (s : State) :
    (alignSucceed e s).motor = s.motor := by simp [alignSucceed]
@[simp] theorem alignSucceed_calOffset (e : B32) (s : State) :
    (alignSucceed e s).calOffset = e := by simp [alignSucceed]
@[simp] theorem alignSucceed_vpid (e : B32) (s : State) : (alignSucceed e s).vpid = s.vpid := by simp [alignSucceed]
@[simp] theorem alignSucceed_apid (e : B32) (s : State) : (alignSucceed e s).apid = s.apid := by simp [alignSucceed]
@[simp] theorem alignSucceed_retune (e : B32) (s : State) :
    (alignSucceed e s).retune = s.retune := by simp [alignSucceed]
@[simp] theorem alignSucceed_sensor_angle (e : B32) (s : State) :
    (alignSucceed e s).sensor.angle = s.sensor.angle := by simp [alignSucceed]
@[simp] theorem alignSucceed_sensor_rev (e : B32) (s : State) :
    (alignSucceed e s).sensor.rev = 0#32 := by simp [alignSucceed]
@[simp] theorem alignSucceed_sensor_vel (e : B32) (s : State) :
    (alignSucceed e s).sensor.vel = Config.zero := by simp [alignSucceed]
@[simp] theorem alignSucceed_sensor_cont (e : B32) (s : State) :
    (alignSucceed e s).sensor.cont = continuousAngle 0#32 s.sensor.angle := by simp [alignSucceed]
@[simp] theorem alignSucceed_sensor_dt (e : B32) (s : State) :
    (alignSucceed e s).sensor.dt = s.sensor.dt := by simp [alignSucceed]
@[simp] theorem alignSucceed_sensor_t (e : B32) (s : State) :
    (alignSucceed e s).sensor.t = s.sensor.t := by simp [alignSucceed]
@[simp] theorem alignSucceed_duty (e : B32) (s : State) : (alignSucceed e s).duty = s.duty := by simp [alignSucceed]
@[simp] theorem alignSucceed_drive (e : B32) (s : State) :
    (alignSucceed e s).drive = s.drive := by simp [alignSucceed]
@[simp] theorem alignSucceed_ol (e : B32) (s : State) : (alignSucceed e s).ol = s.ol := by simp [alignSucceed]
@[simp] theorem alignSucceed_status_fatal (e : B32) (s : State) :
    (alignSucceed e s).status.fatal = s.status.fatal := by simp [alignSucceed]
@[simp] theorem alignSucceed_status_aligned (e : B32) (s : State) :
    (alignSucceed e s).status.aligned = true := by simp [alignSucceed]
@[simp] theorem alignSucceed_status_deadband (e : B32) (s : State) :
    (alignSucceed e s).status.deadband = s.status.deadband := by simp [alignSucceed]
@[simp] theorem alignSucceed_status_vzdiv (e : B32) (s : State) :
    (alignSucceed e s).status.vzdiv = s.status.vzdiv := by simp [alignSucceed]
@[simp] theorem alignSucceed_status_wdrop (e : B32) (s : State) :
    (alignSucceed e s).status.wdrop = s.status.wdrop := by simp [alignSucceed]
@[simp] theorem alignSucceed_status_err (e : B32) (s : State) :
    (alignSucceed e s).status.err = .ok := by simp [alignSucceed]
@[simp] theorem alignSucceed_status_errCh (e : B32) (s : State) :
    (alignSucceed e s).status.errCh = .a := by simp [alignSucceed]
@[simp] theorem alignSucceed_status_lastOp (e : B32) (s : State) :
    (alignSucceed e s).status.lastOp = s.status.lastOp := by simp [alignSucceed]
@[simp] theorem alignSucceed_pending (e : B32) (s : State) :
    (alignSucceed e s).pending = s.pending := by simp [alignSucceed]
@[simp] theorem alignSucceed_align (e : B32) (s : State) :
    (alignSucceed e s).align = s.align := by simp [alignSucceed]
@[simp] theorem alignSucceed_env (e : B32) (s : State) : (alignSucceed e s).env = s.env := by simp [alignSucceed]

@[simp] theorem olIntegrate_motion (t : U64) (s : State) :
    (olIntegrate t s).motion = s.motion := by simp [olIntegrate]
@[simp] theorem olIntegrate_args (t : U64) (s : State) : (olIntegrate t s).args = s.args := by simp [olIntegrate]
@[simp] theorem olIntegrate_motor (t : U64) (s : State) : (olIntegrate t s).motor = s.motor := by simp [olIntegrate]
@[simp] theorem olIntegrate_calOffset (t : U64) (s : State) :
    (olIntegrate t s).calOffset = s.calOffset := by simp [olIntegrate]
@[simp] theorem olIntegrate_vpid (t : U64) (s : State) : (olIntegrate t s).vpid = s.vpid := by simp [olIntegrate]
@[simp] theorem olIntegrate_apid (t : U64) (s : State) : (olIntegrate t s).apid = s.apid := by simp [olIntegrate]
@[simp] theorem olIntegrate_retune (t : U64) (s : State) :
    (olIntegrate t s).retune = s.retune := by simp [olIntegrate]
@[simp] theorem olIntegrate_sensor (t : U64) (s : State) :
    (olIntegrate t s).sensor = s.sensor := by simp [olIntegrate]
@[simp] theorem olIntegrate_duty (t : U64) (s : State) : (olIntegrate t s).duty = s.duty := by simp [olIntegrate]
@[simp] theorem olIntegrate_drive (t : U64) (s : State) : (olIntegrate t s).drive = s.drive := by simp [olIntegrate]
@[simp] theorem olIntegrate_ol (t : U64) (s : State) :
    (olIntegrate t s).ol = s.ol.integrate t := by simp [olIntegrate]
@[simp] theorem olIntegrate_status (t : U64) (s : State) :
    (olIntegrate t s).status = s.status := by simp [olIntegrate]
@[simp] theorem olIntegrate_pending (t : U64) (s : State) :
    (olIntegrate t s).pending = s.pending := by simp [olIntegrate]
@[simp] theorem olIntegrate_align (t : U64) (s : State) : (olIntegrate t s).align = s.align := by simp [olIntegrate]
@[simp] theorem olIntegrate_env (t : U64) (s : State) : (olIntegrate t s).env = s.env := by simp [olIntegrate]

@[simp] theorem storeReg_motion (r : Reg) (v : Word) (s : State) : (storeReg r v s).motion = s.motion := rfl
@[simp] theorem storeReg_args (r : Reg) (v : Word) (s : State) : (storeReg r v s).args = s.args.store v r := rfl
@[simp] theorem storeReg_motor (r : Reg) (v : Word) (s : State) : (storeReg r v s).motor = s.motor.store v r := rfl
@[simp] theorem storeReg_calOffset (r : Reg) (v : Word) (s : State) : (storeReg r v s).calOffset = s.calOffset := rfl
@[simp] theorem storeReg_retune (r : Reg) (v : Word) (s : State) : (storeReg r v s).retune = s.retune.store v r := rfl
@[simp] theorem storeReg_sensor (r : Reg) (v : Word) (s : State) : (storeReg r v s).sensor = s.sensor := rfl
@[simp] theorem storeReg_duty (r : Reg) (v : Word) (s : State) : (storeReg r v s).duty = s.duty := rfl
@[simp] theorem storeReg_drive (r : Reg) (v : Word) (s : State) : (storeReg r v s).drive = s.drive := rfl
@[simp] theorem storeReg_ol (r : Reg) (v : Word) (s : State) : (storeReg r v s).ol = s.ol.store v r := rfl
@[simp] theorem storeReg_status (r : Reg) (v : Word) (s : State) : (storeReg r v s).status = s.status := rfl
@[simp] theorem storeReg_pending (r : Reg) (v : Word) (s : State) : (storeReg r v s).pending = s.pending := rfl
@[simp] theorem storeReg_align (r : Reg) (v : Word) (s : State) : (storeReg r v s).align = s.align := rfl
@[simp] theorem storeReg_env (r : Reg) (v : Word) (s : State) : (storeReg r v s).env = s.env := rfl

@[simp] theorem acceptCommand_motion (w : Word) (s : State) : (acceptCommand w s).motion = s.motion := rfl
@[simp] theorem acceptCommand_args (w : Word) (s : State) : (acceptCommand w s).args = s.args := rfl
@[simp] theorem acceptCommand_motor (w : Word) (s : State) : (acceptCommand w s).motor = s.motor := rfl
@[simp] theorem acceptCommand_calOffset (w : Word) (s : State) : (acceptCommand w s).calOffset = s.calOffset := rfl
@[simp] theorem acceptCommand_vpid (w : Word) (s : State) : (acceptCommand w s).vpid = s.vpid := rfl
@[simp] theorem acceptCommand_apid (w : Word) (s : State) : (acceptCommand w s).apid = s.apid := rfl
@[simp] theorem acceptCommand_retune (w : Word) (s : State) : (acceptCommand w s).retune = s.retune := rfl
@[simp] theorem acceptCommand_sensor (w : Word) (s : State) : (acceptCommand w s).sensor = s.sensor := rfl
@[simp] theorem acceptCommand_duty (w : Word) (s : State) : (acceptCommand w s).duty = s.duty := rfl
@[simp] theorem acceptCommand_drive (w : Word) (s : State) : (acceptCommand w s).drive = s.drive := rfl
@[simp] theorem acceptCommand_ol (w : Word) (s : State) : (acceptCommand w s).ol = s.ol := rfl
@[simp] theorem acceptCommand_status_fatal (w : Word) (s : State) :
    (acceptCommand w s).status.fatal = s.status.fatal := rfl
@[simp] theorem acceptCommand_status_aligned (w : Word) (s : State) :
    (acceptCommand w s).status.aligned = s.status.aligned := rfl
@[simp] theorem acceptCommand_status_deadband (w : Word) (s : State) :
    (acceptCommand w s).status.deadband = s.status.deadband := rfl
@[simp] theorem acceptCommand_status_vzdiv (w : Word) (s : State) :
    (acceptCommand w s).status.vzdiv = s.status.vzdiv := rfl
@[simp] theorem acceptCommand_status_wdrop (w : Word) (s : State) : (acceptCommand w s).status.wdrop = false := rfl
@[simp] theorem acceptCommand_status_err (w : Word) (s : State) : (acceptCommand w s).status.err = s.status.err := rfl
@[simp] theorem acceptCommand_status_errCh (w : Word) (s : State) :
    (acceptCommand w s).status.errCh = s.status.errCh := rfl
@[simp] theorem acceptCommand_status_lastOp (w : Word) (s : State) :
    (acceptCommand w s).status.lastOp = w.extractLsb' 0 8 := rfl
@[simp] theorem acceptCommand_pending (w : Word) (s : State) : (acceptCommand w s).pending = some w := rfl
@[simp] theorem acceptCommand_align (w : Word) (s : State) : (acceptCommand w s).align = s.align := rfl
@[simp] theorem acceptCommand_env (w : Word) (s : State) : (acceptCommand w s).env = s.env := rfl

@[simp] theorem respond_motion (b : BusResponse) (s : State) : (respond b s).motion = s.motion := rfl
@[simp] theorem respond_args (b : BusResponse) (s : State) : (respond b s).args = s.args := rfl
@[simp] theorem respond_motor (b : BusResponse) (s : State) : (respond b s).motor = s.motor := rfl
@[simp] theorem respond_calOffset (b : BusResponse) (s : State) : (respond b s).calOffset = s.calOffset := rfl
@[simp] theorem respond_vpid (b : BusResponse) (s : State) : (respond b s).vpid = s.vpid := rfl
@[simp] theorem respond_apid (b : BusResponse) (s : State) : (respond b s).apid = s.apid := rfl
@[simp] theorem respond_retune (b : BusResponse) (s : State) : (respond b s).retune = s.retune := rfl
@[simp] theorem respond_sensor (b : BusResponse) (s : State) : (respond b s).sensor = s.sensor := rfl
@[simp] theorem respond_duty (b : BusResponse) (s : State) : (respond b s).duty = s.duty := rfl
@[simp] theorem respond_drive (b : BusResponse) (s : State) : (respond b s).drive = s.drive := rfl
@[simp] theorem respond_ol (b : BusResponse) (s : State) : (respond b s).ol = s.ol := rfl
@[simp] theorem respond_status (b : BusResponse) (s : State) : (respond b s).status = s.status := rfl
@[simp] theorem respond_pending (b : BusResponse) (s : State) : (respond b s).pending = s.pending := rfl
@[simp] theorem respond_align (b : BusResponse) (s : State) : (respond b s).align = s.align := rfl
@[simp] theorem respond_env_agenda (b : BusResponse) (s : State) : (respond b s).env.agenda = s.env.agenda := rfl
@[simp] theorem respond_env_ports (b : BusResponse) (s : State) : (respond b s).env.ports = s.env.ports := rfl
@[simp] theorem respond_env_portLog (b : BusResponse) (s : State) : (respond b s).env.portLog = s.env.portLog := rfl
@[simp] theorem respond_env_outputs (b : BusResponse) (s : State) : (respond b s).env.outputs = s.env.outputs := rfl
@[simp] theorem respond_env_response (b : BusResponse) (s : State) : (respond b s).env.response = b := rfl
@[simp] theorem respond_env_trig (b : BusResponse) (s : State) : (respond b s).env.trig = s.env.trig := rfl

@[simp] theorem takePending_motion (s : State) : (takePending s).motion = s.motion := rfl
@[simp] theorem takePending_args (s : State) : (takePending s).args = s.args := rfl
@[simp] theorem takePending_motor (s : State) : (takePending s).motor = s.motor := rfl
@[simp] theorem takePending_calOffset (s : State) : (takePending s).calOffset = s.calOffset := rfl
@[simp] theorem takePending_vpid (s : State) : (takePending s).vpid = s.vpid := rfl
@[simp] theorem takePending_apid (s : State) : (takePending s).apid = s.apid := rfl
@[simp] theorem takePending_retune (s : State) : (takePending s).retune = s.retune := rfl
@[simp] theorem takePending_sensor (s : State) : (takePending s).sensor = s.sensor := rfl
@[simp] theorem takePending_duty (s : State) : (takePending s).duty = s.duty := rfl
@[simp] theorem takePending_drive (s : State) : (takePending s).drive = s.drive := rfl
@[simp] theorem takePending_ol (s : State) : (takePending s).ol = s.ol := rfl
@[simp] theorem takePending_status (s : State) : (takePending s).status = s.status := rfl
@[simp] theorem takePending_pending (s : State) : (takePending s).pending = none := rfl
@[simp] theorem takePending_align (s : State) : (takePending s).align = s.align := rfl
@[simp] theorem takePending_env (s : State) : (takePending s).env = s.env := rfl

@[simp] theorem beginStep_motion (rest : List Event) (s : State) : (beginStep rest s).motion = s.motion := rfl
@[simp] theorem beginStep_args (rest : List Event) (s : State) : (beginStep rest s).args = s.args := rfl
@[simp] theorem beginStep_motor (rest : List Event) (s : State) : (beginStep rest s).motor = s.motor := rfl
@[simp] theorem beginStep_calOffset (rest : List Event) (s : State) :
    (beginStep rest s).calOffset = s.calOffset := rfl
@[simp] theorem beginStep_vpid (rest : List Event) (s : State) : (beginStep rest s).vpid = s.vpid := rfl
@[simp] theorem beginStep_apid (rest : List Event) (s : State) : (beginStep rest s).apid = s.apid := rfl
@[simp] theorem beginStep_retune (rest : List Event) (s : State) : (beginStep rest s).retune = s.retune := rfl
@[simp] theorem beginStep_sensor (rest : List Event) (s : State) : (beginStep rest s).sensor = s.sensor := rfl
@[simp] theorem beginStep_duty (rest : List Event) (s : State) : (beginStep rest s).duty = s.duty := rfl
@[simp] theorem beginStep_drive (rest : List Event) (s : State) : (beginStep rest s).drive = s.drive := rfl
@[simp] theorem beginStep_ol (rest : List Event) (s : State) : (beginStep rest s).ol = s.ol := rfl
@[simp] theorem beginStep_status (rest : List Event) (s : State) : (beginStep rest s).status = s.status := rfl
@[simp] theorem beginStep_pending (rest : List Event) (s : State) : (beginStep rest s).pending = s.pending := rfl
@[simp] theorem beginStep_align (rest : List Event) (s : State) : (beginStep rest s).align = s.align := rfl
@[simp] theorem beginStep_env_agenda (rest : List Event) (s : State) : (beginStep rest s).env.agenda = rest := rfl
@[simp] theorem beginStep_env_ports (rest : List Event) (s : State) :
    (beginStep rest s).env.ports = s.env.ports := rfl
@[simp] theorem beginStep_env_portLog (rest : List Event) (s : State) : (beginStep rest s).env.portLog = [] := rfl
@[simp] theorem beginStep_env_outputs (rest : List Event) (s : State) :
    (beginStep rest s).env.outputs = s.env.outputs := rfl
@[simp] theorem beginStep_env_response (rest : List Event) (s : State) :
    (beginStep rest s).env.response = s.env.response := rfl
@[simp] theorem beginStep_env_trig (rest : List Event) (s : State) : (beginStep rest s).env.trig = s.env.trig := rfl

@[simp] theorem setPorts_motion (p : Ports) (s : State) : (setPorts p s).motion = s.motion := rfl
@[simp] theorem setPorts_args (p : Ports) (s : State) : (setPorts p s).args = s.args := rfl
@[simp] theorem setPorts_motor (p : Ports) (s : State) : (setPorts p s).motor = s.motor := rfl
@[simp] theorem setPorts_calOffset (p : Ports) (s : State) : (setPorts p s).calOffset = s.calOffset := rfl
@[simp] theorem setPorts_vpid (p : Ports) (s : State) : (setPorts p s).vpid = s.vpid := rfl
@[simp] theorem setPorts_apid (p : Ports) (s : State) : (setPorts p s).apid = s.apid := rfl
@[simp] theorem setPorts_retune (p : Ports) (s : State) : (setPorts p s).retune = s.retune := rfl
@[simp] theorem setPorts_sensor (p : Ports) (s : State) : (setPorts p s).sensor = s.sensor := rfl
@[simp] theorem setPorts_duty (p : Ports) (s : State) : (setPorts p s).duty = s.duty := rfl
@[simp] theorem setPorts_drive (p : Ports) (s : State) : (setPorts p s).drive = s.drive := rfl
@[simp] theorem setPorts_ol (p : Ports) (s : State) : (setPorts p s).ol = s.ol := rfl
@[simp] theorem setPorts_status (p : Ports) (s : State) : (setPorts p s).status = s.status := rfl
@[simp] theorem setPorts_pending (p : Ports) (s : State) : (setPorts p s).pending = s.pending := rfl
@[simp] theorem setPorts_align (p : Ports) (s : State) : (setPorts p s).align = s.align := rfl
@[simp] theorem setPorts_env_agenda (p : Ports) (s : State) : (setPorts p s).env.agenda = s.env.agenda := rfl
@[simp] theorem setPorts_env_ports (p : Ports) (s : State) : (setPorts p s).env.ports = p := rfl
@[simp] theorem setPorts_env_portLog (p : Ports) (s : State) : (setPorts p s).env.portLog = s.env.portLog := rfl
@[simp] theorem setPorts_env_outputs (p : Ports) (s : State) : (setPorts p s).env.outputs = s.env.outputs := rfl
@[simp] theorem setPorts_env_response (p : Ports) (s : State) : (setPorts p s).env.response = s.env.response := rfl
@[simp] theorem setPorts_env_trig (p : Ports) (s : State) : (setPorts p s).env.trig = s.env.trig := rfl

@[simp] theorem placeCommand_motion (w : Word) (s : State) : (placeCommand w s).motion = s.motion := rfl
@[simp] theorem placeCommand_args (w : Word) (s : State) : (placeCommand w s).args = s.args := rfl
@[simp] theorem placeCommand_motor (w : Word) (s : State) : (placeCommand w s).motor = s.motor := rfl
@[simp] theorem placeCommand_calOffset (w : Word) (s : State) : (placeCommand w s).calOffset = s.calOffset := rfl
@[simp] theorem placeCommand_vpid (w : Word) (s : State) : (placeCommand w s).vpid = s.vpid := rfl
@[simp] theorem placeCommand_apid (w : Word) (s : State) : (placeCommand w s).apid = s.apid := rfl
@[simp] theorem placeCommand_retune (w : Word) (s : State) : (placeCommand w s).retune = s.retune := rfl
@[simp] theorem placeCommand_sensor (w : Word) (s : State) : (placeCommand w s).sensor = s.sensor := rfl
@[simp] theorem placeCommand_duty (w : Word) (s : State) : (placeCommand w s).duty = s.duty := rfl
@[simp] theorem placeCommand_drive (w : Word) (s : State) : (placeCommand w s).drive = s.drive := rfl
@[simp] theorem placeCommand_ol (w : Word) (s : State) : (placeCommand w s).ol = s.ol := rfl
@[simp] theorem placeCommand_status (w : Word) (s : State) : (placeCommand w s).status = s.status := rfl
@[simp] theorem placeCommand_pending (w : Word) (s : State) : (placeCommand w s).pending = some w := rfl
@[simp] theorem placeCommand_align_phase (w : Word) (s : State) : (placeCommand w s).align.phase = .idle := rfl
@[simp] theorem placeCommand_align_t0 (w : Word) (s : State) : (placeCommand w s).align.t0 = s.align.t0 := rfl
@[simp] theorem placeCommand_align_eb (w : Word) (s : State) : (placeCommand w s).align.eb = s.align.eb := rfl
@[simp] theorem placeCommand_env_agenda (w : Word) (s : State) :
    (placeCommand w s).env.agenda = .block s.env.ports :: s.env.agenda := rfl
@[simp] theorem placeCommand_env_ports (w : Word) (s : State) : (placeCommand w s).env.ports = s.env.ports := rfl
@[simp] theorem placeCommand_env_portLog (w : Word) (s : State) :
    (placeCommand w s).env.portLog = s.env.portLog := rfl
@[simp] theorem placeCommand_env_outputs (w : Word) (s : State) :
    (placeCommand w s).env.outputs = s.env.outputs := rfl
@[simp] theorem placeCommand_env_response (w : Word) (s : State) :
    (placeCommand w s).env.response = s.env.response := rfl
@[simp] theorem placeCommand_env_trig (w : Word) (s : State) : (placeCommand w s).env.trig = s.env.trig := rfl

end Sys2Proof.Machine
end

