-- ==== Sys2Proof/Laws/Ops.lean ====
section
/-! SUPPORT. Sys2Proof/Laws/Ops.lean: for each shared operation, what it can do, said once: the duty writes, the
commit and DRIVE, the sensor read, a host access, a block step and a step. -/

namespace Sys2Proof.Machine

/-! ### The duty latch and the outputs -/

@[simp] theorem Duty.set_get (d : Duty) (ch : Phase) (p : B32) : (d.set ch p).get ch = p := by
  cases ch <;> rfl

theorem Duty.set_get_ne (d : Duty) (ch k : Phase) (p : B32) (h : k ≠ ch) : (d.set ch p).get k = d.get k := by
  cases ch <;> cases k <;> first | rfl | exact absurd rfl h

@[simp] theorem Outputs.set_get (o : Outputs) (ch : Phase) (v : PortDrive) : (o.set ch v).get ch = v := by
  cases ch <;> rfl

theorem Outputs.set_get_ne (o : Outputs) (ch k : Phase) (v : PortDrive) (h : k ≠ ch) :
    (o.set ch v).get k = o.get k := by
  cases ch <;> cases k <;> first | rfl | exact absurd rfl h

/-! ### Flows -/

@[simp] theorem Flow.state_go (s : State) : (Flow.go s).state = s := rfl
@[simp] theorem Flow.state_ended (s : State) : (Flow.ended s).state = s := rfl
@[simp] theorem Flow.go_andThen (s : State) (k : State → Flow) : (Flow.go s).andThen k = k s := rfl
@[simp] theorem Flow.ended_andThen (s : State) (k : State → Flow) : (Flow.ended s).andThen k = .ended s := rfl

/-- What holds of the state of a flow and is kept by the next stretch holds of the whole. -/
theorem Flow.andThen_state (P : State → Prop) (f : Flow) (k : State → Flow)
    (hf : P f.state) (hk : ∀ s, P s → P (k s).state) : P (f.andThen k).state := by
  cases f with
  | go s => exact hk s hf
  | ended s => exact hf

/-! ### One duty write, the commit, DRIVE -/

theorem writeDuty_accepted (ch : Phase) (p : B32) (s : State) (h : s.env.ports.accepts ch = true) :
    writeDuty ch p s = .go (acceptDuty ch p (logPort (.pwm ch p) s)) := by
  simp [writeDuty, h]

theorem writeDuty_refused (ch : Phase) (p : B32) (s : State) (h : s.env.ports.accepts ch = false) :
    writeDuty ch p s = .ended (raisePwm ch (loseOutput ch (logPort (.pwm ch p) s))) := by
  simp [writeDuty, h]

theorem writeDuty_cases (ch : Phase) (p : B32) (s : State) :
    writeDuty ch p s = .go (acceptDuty ch p (logPort (.pwm ch p) s)) ∨
      writeDuty ch p s = .ended (raisePwm ch (loseOutput ch (logPort (.pwm ch p) s))) := by
  cases h : s.env.ports.accepts ch with
  | true => exact .inl (writeDuty_accepted ch p s h)
  | false => exact .inr (writeDuty_refused ch p s h)

/-- A commit that goes on has written all three phases. -/
theorem commit_accepted (p : Duty) (s : State) (ha : s.env.ports.pwmA = true) (hb : s.env.ports.pwmB = true)
    (hc : s.env.ports.pwmC = true) :
    commit p s = .go (acceptDuty .c p.c (logPort (.pwm .c p.c) (acceptDuty .b p.b (logPort (.pwm .b p.b)
      (acceptDuty .a p.a (logPort (.pwm .a p.a) s)))))) := by
  simp [commit, writeDuty, Ports.accepts, ha, hb, hc]

theorem commit_refused_a (p : Duty) (s : State) (ha : s.env.ports.pwmA = false) :
    commit p s = .ended (raisePwm .a (loseOutput .a (logPort (.pwm .a p.a) s))) := by
  simp [commit, writeDuty, Ports.accepts, ha]

theorem commit_refused_b (p : Duty) (s : State) (ha : s.env.ports.pwmA = true) (hb : s.env.ports.pwmB = false) :
    commit p s = .ended (raisePwm .b (loseOutput .b (logPort (.pwm .b p.b)
      (acceptDuty .a p.a (logPort (.pwm .a p.a) s))))) := by
  simp [commit, writeDuty, Ports.accepts, ha, hb]

theorem commit_refused_c (p : Duty) (s : State) (ha : s.env.ports.pwmA = true) (hb : s.env.ports.pwmB = true)
    (hc : s.env.ports.pwmC = false) :
    commit p s = .ended (raisePwm .c (loseOutput .c (logPort (.pwm .c p.c) (acceptDuty .b p.b (logPort (.pwm .b p.b)
      (acceptDuty .a p.a (logPort (.pwm .a p.a) s))))))) := by
  simp [commit, writeDuty, Ports.accepts, ha, hb, hc]

/-- What a property keeps through every kind of duty write, it keeps through the commit. -/
theorem commit_state (P : State → Prop) (p : Duty) (s : State) (h : P s)
    (hgo : ∀ ch t, P t → P (acceptDuty ch (p.get ch) (logPort (.pwm ch (p.get ch)) t)))
    (hend : ∀ ch t, P t → P (raisePwm ch (loseOutput ch (logPort (.pwm ch (p.get ch)) t)))) :
    P (commit p s).state := by
  have one : ∀ ch t, P t → P (writeDuty ch (p.get ch) t).state := by
    intro ch t ht
    obtain e | e := writeDuty_cases ch (p.get ch) t
    · rw [e]
      exact hgo ch t ht
    · rw [e]
      exact hend ch t ht
  exact Flow.andThen_state P _ _ (Flow.andThen_state P _ _ (one .a s h) (one .b)) (one .c)

/-- DRIVE with a NaN percentage: NUMERIC, the diagnostics written, no port and no latch touched. -/
theorem drive_numeric (q d th : B32) (s : State) (h : (dutiesFor q d th s).anyNaN = true) :
    drive q d th s = .ended (raise .numeric (setDrive q d th s)) := by
  simp [drive, h]

/-- DRIVE without a NaN percentage is its commit, completed. -/
theorem drive_commit (q d th : B32) (s : State) (h : (dutiesFor q d th s).anyNaN = false) :
    drive q d th s =
      (commit (dutiesFor q d th s) (setDrive q d th s)).andThen (fun t => .go (complete t)) := by
  simp [drive, h]

/-- DRIVE that all three ports accept. -/
theorem drive_accepted (q d th : B32) (s : State) (h : (dutiesFor q d th s).anyNaN = false)
    (ha : AllPortsAccept s) : drive q d th s = .go (afterDrive q d th (dutiesFor q d th s) s) := by
  obtain ⟨ha, hb, hc⟩ := ha
  rw [drive_commit _ _ _ _ h, commit_accepted _ _ (by simpa using ha) (by simpa using hb) (by simpa using hc)]
  simp [afterDrive, complete, setResult, acceptDuty, logPort, setDrive, Env.logged, commitAccesses, Duty.set,
    Outputs.set]

/-- What holds before DRIVE and is kept by each of its writes holds after it. -/
theorem drive_state (P : State → Prop) (q d th : B32) (s : State)
    (h : P (setDrive q d th s))
    (hnum : (dutiesFor q d th s).anyNaN = true → ∀ t, P t → P (raise .numeric t))
    (hok : ∀ t, P t → P (complete t))
    (hgo : (dutiesFor q d th s).anyNaN = false → ∀ ch t, P t →
      P (acceptDuty ch ((dutiesFor q d th s).get ch) (logPort (.pwm ch ((dutiesFor q d th s).get ch)) t)))
    (hend : (dutiesFor q d th s).anyNaN = false → ∀ ch t, P t →
      P (raisePwm ch (loseOutput ch (logPort (.pwm ch ((dutiesFor q d th s).get ch)) t)))) :
    P (drive q d th s).state := by
  cases hn : (dutiesFor q d th s).anyNaN with
  | true =>
    rw [drive_numeric _ _ _ _ hn]
    exact hnum hn _ h
  | false =>
    rw [drive_commit _ _ _ _ hn]
    exact Flow.andThen_state P _ _ (commit_state P _ _ h (hgo hn) (hend hn)) hok

/-- The fields DRIVE leaves as they were, whatever way it ends. -/
theorem drive_keeps (q d th : B32) (s : State) : ∃ st en du,
    (drive q d th s).state =
      { s with drive := { vq := q, vd := d, eangle := th }, status := st, env := en, duty := du } ∧
    st.aligned = s.status.aligned ∧ st.fatal = s.status.fatal ∧ st.lastOp = s.status.lastOp ∧
    st.wdrop = s.status.wdrop := by
  refine drive_state (fun t => ∃ st en du,
    t = { s with drive := { vq := q, vd := d, eangle := th }, status := st, env := en, duty := du } ∧
    st.aligned = s.status.aligned ∧ st.fatal = s.status.fatal ∧ st.lastOp = s.status.lastOp ∧
    st.wdrop = s.status.wdrop) q d th s ?_ ?_ ?_ ?_ ?_
  · exact ⟨s.status, s.env, s.duty, rfl, rfl, rfl, rfl, rfl⟩
  · rintro _ t ⟨st, en, du, rfl, h⟩
    exact ⟨{ st with err := .numeric, errCh := .a }, en, du, rfl, h⟩
  · rintro t ⟨st, en, du, rfl, h⟩
    exact ⟨{ st with err := .ok, errCh := .a }, en, du, rfl, h⟩
  · rintro _ ch t ⟨st, en, du, rfl, h⟩
    exact ⟨st, _, _, rfl, h⟩
  · rintro _ ch t ⟨st, en, du, rfl, h⟩
    exact ⟨{ st with err := .pwm, errCh := ch }, _, du, rfl, h⟩

/-- No port refuses exactly when all three accept. -/
theorem firstRefused_none (s : State) : s.env.ports.firstRefused = none ↔ AllPortsAccept s := by
  unfold Ports.firstRefused AllPortsAccept
  cases s.env.ports.pwmA <;> cases s.env.ports.pwmB <;> cases s.env.ports.pwmC <;> simp

/-- DRIVE whose duty write of phase `ch` is the first one refused. -/
theorem drive_refused (q d th : B32) (s : State) (ch : Phase) (h : (dutiesFor q d th s).anyNaN = false)
    (hr : s.env.ports.firstRefused = some ch) :
    drive q d th s = .ended (afterRefusal q d th (dutiesFor q d th s) s ch) := by
  rw [drive_commit _ _ _ _ h]
  cases ha : s.env.ports.pwmA with
  | false =>
    obtain rfl : Phase.a = ch := by simpa [Ports.firstRefused, ha] using hr
    rw [commit_refused_a _ (setDrive q d th s) ha]
    rfl
  | true =>
    cases hb : s.env.ports.pwmB with
    | false =>
      obtain rfl : Phase.b = ch := by simpa [Ports.firstRefused, ha, hb] using hr
      rw [commit_refused_b _ (setDrive q d th s) ha hb]
      simp [afterRefusal, raisePwm, setResult, loseOutput, acceptDuty, logPort, setDrive, Env.logged, Duty.set,
        Outputs.set]
    | true =>
      cases hc : s.env.ports.pwmC with
      | false =>
        obtain rfl : Phase.c = ch := by simpa [Ports.firstRefused, ha, hb, hc] using hr
        rw [commit_refused_c _ (setDrive q d th s) ha hb hc]
        simp [afterRefusal, raisePwm, setResult, loseOutput, acceptDuty, logPort, setDrive, Env.logged, Duty.set,
          Outputs.set]
      | true => simp [Ports.firstRefused, ha, hb, hc] at hr

/-- How DRIVE ends: committed whole, with NUMERIC before any port, or with PWM at the first refused phase. -/
theorem drive_cases (q d th : B32) (s : State) :
    (drive q d th s = .go (afterDrive q d th (dutiesFor q d th s) s) ∧ AllPortsAccept s ∧
      (dutiesFor q d th s).anyNaN = false) ∨
    (drive q d th s = .ended (afterNumeric q d th s) ∧ (dutiesFor q d th s).anyNaN = true) ∨
    (∃ ch, drive q d th s = .ended (afterRefusal q d th (dutiesFor q d th s) s ch) ∧
      s.env.ports.firstRefused = some ch ∧ (dutiesFor q d th s).anyNaN = false) := by
  cases hn : (dutiesFor q d th s).anyNaN with
  | true => exact .inr (.inl ⟨drive_numeric _ _ _ _ hn, rfl⟩)
  | false =>
    cases hr : s.env.ports.firstRefused with
    | none =>
      have hall := (firstRefused_none s).1 hr
      exact .inl ⟨drive_accepted _ _ _ _ hn hall, hall, rfl⟩
    | some ch => exact .inr (.inr ⟨ch, drive_refused _ _ _ _ _ hn hr, rfl, rfl⟩)

/-- What DRIVE adds to the port log: nothing with a NaN percentage, else the duty writes up to the first refused one. -/
theorem drive_log (q d th : B32) (s : State) :
    (drive q d th s).state.env.portLog = s.env.portLog ++
      (if (dutiesFor q d th s).anyNaN then [] else
        (commitAccesses (dutiesFor q d th s)).take (dutyWrites s.env.ports)) := by
  obtain ⟨e, hall, hn⟩ | ⟨e, hn⟩ | ⟨ch, e, hr, hn⟩ := drive_cases q d th s
  · rw [e, hn, dutyWrites, (firstRefused_none s).2 hall]
    rfl
  · rw [e, hn]
    simp [afterNumeric]
  · rw [e, hn, dutyWrites, hr]
    cases ch <;> rfl

/-! ### The sensor read and the checks -/

/-- The record with its two port accesses, in the statements' words. -/
theorem record_eq_recorded (a : B32) (s : State) :
    record a s.env.ports.clock (logPort .sensor (logPort .clock s)) = recorded a s := by
  simp [record, logPort, recorded, Env.logged]


theorem readSensor_ok (p : Ports) (a : B32) : readSensor p = .ok a ↔ p.sensor = .ok a ∧ inRange a = true := by
  unfold readSensor
  cases h : p.sensor with
  | err => simp
  | ok b =>
    by_cases hb : inRange b = true
    · simp only [hb, if_true, Except.ok.injEq, SensorAnswer.ok.injEq]
      exact ⟨fun e => ⟨e, e ▸ hb⟩, fun e => e.1⟩
    · simp only [hb, SensorAnswer.ok.injEq]
      exact ⟨fun e => by simp at e, fun e => absurd (e.1 ▸ e.2) hb⟩

theorem readSensor_error (p : Ports) (e : Err) : readSensor p = .error e ↔
    (p.sensor = .err ∧ e = .sensor) ∨ (∃ a, p.sensor = .ok a ∧ inRange a = false ∧ e = .sensorRange) := by
  unfold readSensor
  cases h : p.sensor with
  | err =>
    constructor
    · intro hh
      cases hh
      exact .inl ⟨rfl, rfl⟩
    · rintro (⟨-, rfl⟩ | ⟨a, ha, -⟩)
      · rfl
      · cases ha
  | ok b =>
    cases hb : inRange b with
    | true =>
      constructor
      · intro hh
        simp [hb] at hh
      · rintro (⟨ha, -⟩ | ⟨a, ha, hf, -⟩)
        · cases ha
        · cases ha
          exact absurd hf (by simp [hb])
    | false =>
      constructor
      · intro hh
        simp only [hb, Bool.false_eq_true, if_false, Except.error.injEq] at hh
        exact .inr ⟨b, rfl, hb, hh.symm⟩
      · rintro (⟨ha, -⟩ | ⟨a, -, -, rfl⟩)
        · cases ha
        · simp [hb]

/-- TICK whose checks let an angle through runs its control part on the record. -/
theorem tick_admitted (a : B32) (s : State) (h : TickAdmits a s) :
    tick s = tickControl (record a s.env.ports.clock (logPort .sensor (logPort .clock s))) := by
  obtain ⟨hc, ht, hs, hr⟩ := h
  have hread : readSensor s.env.ports = .ok a := (readSensor_ok _ _).2 ⟨hs, hr⟩
  have h1 : ¬ s.env.ports.clock < s.sensor.t := by bv_omega
  have h2 : s.env.ports.clock ≠ s.sensor.t := by bv_omega
  simp [tick, hc, tickClock, h1, h2, tickSensor, hread]

/-- ALIGN whose checks let an angle through drives its pulse on the record. -/
theorem align_admitted (a : B32) (s : State) (h : AlignAdmits a s) :
    alignPhase1 s = alignPulse (record a s.env.ports.clock (logPort .sensor (logPort .clock s))) := by
  obtain ⟨hc, ht, hs, hr⟩ := h
  have hread : readSensor s.env.ports = .ok a := (readSensor_ok _ _).2 ⟨hs, hr⟩
  have h1 : ¬ s.env.ports.clock < s.sensor.t := by bv_omega
  simp [alignPhase1, hc, alignClock, h1, alignSensor, hread]

/-- Every way a TICK can go: refused before any write, or its control part on an accepted record. -/
theorem tick_cases (s : State) :
    (∃ e l, tick s = raise e { s with env := s.env.logged l } ∧
      (l = [] ∨ l = [.clock] ∨ l = [.clock, .sensor])) ∨
    (∃ a, TickAdmits a s ∧
      tick s = tickControl (record a s.env.ports.clock (logPort .sensor (logPort .clock s)))) := by
  by_cases hc : cfgOk s = true
  · by_cases h1 : s.env.ports.clock < s.sensor.t
    · exact .inl ⟨.clock, [.clock], by simp [tick, hc, tickClock, h1, logPort, Env.logged], by simp⟩
    · by_cases h2 : s.env.ports.clock = s.sensor.t
      · exact .inl ⟨.dtZero, [.clock], by simp [tick, hc, tickClock, h2, logPort, Env.logged], by simp⟩
      · cases hr : readSensor s.env.ports with
        | error e =>
          refine .inl ⟨e, [.clock, .sensor], ?_, by simp⟩
          simp [tick, hc, tickClock, h1, h2, tickSensor, hr, logPort, Env.logged]
        | ok a =>
          have hs := (readSensor_ok _ _).1 hr
          have adm : TickAdmits a s := ⟨hc, by bv_omega, hs.1, hs.2⟩
          exact .inr ⟨a, adm, tick_admitted a s adm⟩
  · exact .inl ⟨.config, [], by simp [tick, hc, Env.logged], by simp⟩

/-- What MODE_STEP can do, mode by mode. -/
theorem modeStep_cases (dt : B32) (s : State) :
    (s.motion.mode = .velocity ∧ modeStep dt s = velocityStep dt s) ∨
    (s.motion.mode = .angle ∧ modeStep dt s = angleStep dt s) ∨
    (s.motion.mode = .torque ∧ modeStep dt s = torqueStep s) ∨
    (s.motion.mode = .ratchet ∧ modeStep dt s = ratchetStep dt s) ∨
    (s.motion.mode = .limitPos ∧ modeStep dt s = limitPosStep s) := by
  unfold modeStep
  cases s.motion.mode <;> simp

/-! ### The clamp -/

/-- The clamp answers a bound it lies beyond, or its operand, which is then beyond neither. -/
theorem clamp_cases (x lo hi : B32) :
    (F32.lt x lo = true ∧ F32.clamp x lo hi = lo) ∨
    (F32.lt x lo = false ∧ F32.gt x hi = true ∧ F32.clamp x lo hi = hi) ∨
    (F32.lt x lo = false ∧ F32.gt x hi = false ∧ F32.clamp x lo hi = x) := by
  unfold F32.clamp
  cases F32.lt x lo <;> cases F32.gt x hi <;> simp

/-- The last steps of a TICK that all ports accept. -/
theorem tickDrive_accepted (tq : B32) (s : State) (ha : AllPortsAccept s)
    (hn : (dutiesFor (qVoltage tq (outsideDeadband s)) (dVoltage tq (outsideDeadband s))
      (electricalAngle (outsideDeadband s)) (outsideDeadband s)).anyNaN = false) :
    tickDrive tq s = afterDrive (qVoltage tq (outsideDeadband s)) (dVoltage tq (outsideDeadband s))
      (electricalAngle (outsideDeadband s))
      (dutiesFor (qVoltage tq (outsideDeadband s)) (dVoltage tq (outsideDeadband s))
        (electricalAngle (outsideDeadband s)) (outsideDeadband s)) (outsideDeadband s) := by
  have e : setDeadband false s = outsideDeadband s := rfl
  simp only [tickDrive, e]
  rw [drive_accepted _ _ _ _ hn ha]
  rfl

/-- An admitted TICK, as a command, is its control part on the record. -/
theorem execTick_admitted (a : B32) (s : State) (h : TickAdmits a s) :
    execTick s = .next (tickControl (recorded a s)) := by
  rw [execTick, tick_admitted a s h, record_eq_recorded]

/-- An admitted ALIGN, as a command, is its pulse on the record. -/
theorem execAlign_admitted (a : B32) (s : State) (h : AlignAdmits a s) :
    execAlign s = .next (alignPulse (recorded a s)) := by
  rw [execAlign, align_admitted a s h, record_eq_recorded]

/-- A TICK that reaches its DRIVE is that DRIVE, whatever way it then ends. -/
theorem execTick_reachesDrive (a tq : B32) (s r : State) (h : TickReachesDrive a s tq r) :
    execTick s = .next (drive (qVoltage tq r) (dVoltage tq r) (electricalAngle r) r).state := by
  obtain ⟨adm, h⟩ := h
  rw [execTick_admitted a s adm]
  cases hm : s.motion.mode with
  | torque =>
    have hm2 : (recorded a s).motion.mode = .torque := hm
    simp only [hm] at h
    obtain ⟨rfl, rfl⟩ := h
    simp only [tickControl, modeStep, hm2, torqueStep]
    rfl
  | velocity =>
    have hm2 : (recorded a s).motion.mode = .velocity := hm
    simp only [hm] at h
    obtain ⟨rfl, rfl⟩ := h
    simp only [tickControl, modeStep, hm2, velocityStep]
    rfl
  | angle =>
    have hm2 : (recorded a s).motion.mode = .angle := hm
    simp only [hm] at h
    obtain ⟨hd, rfl, rfl⟩ := h
    have hd2 : withinDeadband Config.deadbandAngle (recorded a s) = false := hd
    simp only [tickControl, modeStep, hm2, angleStep, hd2, cascade]
    rfl
  | ratchet =>
    have hm2 : (recorded a s).motion.mode = .ratchet := hm
    have er : retarget (recorded a s) =
        { (recorded a s) with motion := { s.motion with target := detent (recorded a s).sensor.cont s.motion.rRps } } :=
      rfl
    have ed : detent (recorded a s).sensor.cont s.motion.rRps =
        F32.mul (F32.roundHalfAway (F32.div (recorded a s).sensor.cont s.motion.rRps)) s.motion.rRps := rfl
    simp only [hm, ← ed] at h
    simp only [tickControl, modeStep, hm2, ratchetStep, er]
    clear er ed
    generalize detent (recorded a s).sensor.cont s.motion.rRps = target at h ⊢
    obtain ⟨hd, rfl, rfl⟩ := h
    have hd2 : withinDeadband Config.deadbandRatchet
        { (recorded a s) with motion := { s.motion with target := target } } = false := hd
    simp only [hd2, cascade]
    simp only [hm]
    rfl
  | limitPos =>
    simp only [hm] at h

/-! ### NaNs on their way to the duties -/

/-- What `volt_to_percent` can answer. -/
theorem voltToPercent_cases (v supply : B32) :
    (F32.lt v Config.zero = true ∧ voltToPercent v supply = Config.zero) ∨
    (F32.lt v Config.zero = false ∧ F32.ge v supply = true ∧ voltToPercent v supply = Config.hundred) ∨
    (F32.lt v Config.zero = false ∧ F32.ge v supply = false ∧ voltToPercent v supply = percentFormula v supply) := by
  unfold voltToPercent
  cases F32.lt v Config.zero <;> cases F32.ge v supply <;> simp

theorem voltToPercent_isNaN (v supply : B32) (h : F32.isNaN v = true) : F32.isNaN (voltToPercent v supply) = true := by
  have hd := F32.div_isNaN_left _ supply (F32.mul_isNaN_left v Config.hundred h)
  have e : voltToPercent v supply = percentFormula v supply := by simp [voltToPercent, F32.lt, F32.ge, h]
  rw [e, percentFormula, F32.clamp_isNaN _ _ _ hd]
  exact hd

/-- A q voltage that is a NaN makes phase A's percentage one. -/
theorem dutiesFor_anyNaN (q d theta : B32) (s : State) (h : F32.isNaN q = true) :
    (dutiesFor q d theta s).anyNaN = true := by
  have ha : F32.isNaN (dutiesFor q d theta s).a = true :=
    voltToPercent_isNaN _ _ (F32.add_isNaN_left _ _ (F32.sub_isNaN_right _ _ (F32.mul_isNaN_right _ _ h)))
  simp [Duty.anyNaN, ha]

/-- A sine that is a NaN does too. -/
theorem dutiesFor_anyNaN_of_sin (q d theta : B32) (s : State) (h : F32.isNaN (sin32 s theta) = true) :
    (dutiesFor q d theta s).anyNaN = true := by
  have ha : F32.isNaN (dutiesFor q d theta s).a = true :=
    voltToPercent_isNaN _ _ (F32.add_isNaN_left _ _ (F32.sub_isNaN_right _ _ (F32.mul_isNaN_left _ _ h)))
  simp [Duty.anyNaN, ha]

/-- A NaN torque target makes the q voltage a NaN. -/
theorem qVoltage_isNaN (tq : B32) (s : State) (h : F32.isNaN tq = true) : F32.isNaN (qVoltage tq s) = true := by
  have hx : F32.isNaN (if s.motor.rEn then F32.mul tq s.motor.phaseR else tq) = true := by
    split
    · exact F32.mul_isNaN_left _ _ h
    · exact h
  have hs := F32.add_isNaN_left _ (bemf s) hx
  rw [qVoltage, limitVoltage, F32.clamp_isNaN _ _ _ hs]
  exact hs

/-- A percentage that is not a NaN lies in [0, 100]. -/
theorem voltToPercent_legal (v supply : B32) (h : F32.isNaN (voltToPercent v supply) = false) :
    dutyLegal (voltToPercent v supply) := by
  obtain ⟨-, e⟩ | ⟨-, -, e⟩ | ⟨-, -, e⟩ := voltToPercent_cases v supply
  · rw [e]
    exact ⟨by decide, by decide⟩
  · rw [e]
    exact ⟨by decide, by decide⟩
  · rw [e, percentFormula] at h ⊢
    have k0 : F32.key Config.zero = 0 := by decide
    have kh : F32.key Config.hundred = 0x42C80000 := by decide
    have n0 : F32.isNaN Config.zero = false := by decide
    have nh : F32.isNaN Config.hundred = false := by decide
    rw [F32.clamp_isNaN_iff _ _ _ n0 nh] at h
    obtain ⟨h1, h2, h3⟩ := F32.clamp_bounds _ Config.zero Config.hundred h n0 nh (by rw [k0, kh]; decide)
    exact ⟨(F32.ge_iff _ _).2 ⟨h1, n0, h2⟩, (F32.ge_iff _ _).2 ⟨nh, h1, h3⟩⟩

/-! ### Host accesses, block steps, steps -/

/-- The register at a register's own offset is that register, inside the window and word aligned. -/
theorem regAt_offset (r : Reg) : regAt r.offset = some r ∧ r.offset % 4 = 0 ∧ r.offset < 512 := by
  cases r <;> try exact ⟨by decide, by decide, by decide⟩
  all_goals
    rename_i f
    cases f <;> exact ⟨by decide, by decide, by decide⟩


/-- What a host access can do. -/
theorem hostAccess_cases (a : HostAccess) (s : State) :
    (∃ addr, hostAccess a s = .fault (.outsideWindow addr)) ∨
    (∃ b t, hostAccess a s = .next (respond b t) ∧
      (t = s ∨ ∃ off v, t = writeOffset off v s)) := by
  cases a with
  | read addr w =>
    simp only [hostAccess]
    split
    · exact .inl ⟨addr, rfl⟩
    · split
      · exact .inr ⟨_, s, rfl, .inl rfl⟩
      · exact .inr ⟨_, s, rfl, .inl rfl⟩
  | write addr w v =>
    simp only [hostAccess]
    split
    · exact .inl ⟨addr, rfl⟩
    · split
      · exact .inr ⟨_, _, rfl, .inr ⟨addr.toNat, v, rfl⟩⟩
      · exact .inr ⟨_, s, rfl, .inl rfl⟩

/-- What a host write to a register can do. -/
theorem writeReg_cases (r : Reg) (v : Word) (s : State) :
    writeReg r v s = s ∨ writeReg r v s = setWdrop s ∨
    (busy s = false ∧ r.access = .rw ∧ writeReg r v s = storeReg r v s) ∨
    (busy s = false ∧ (s.status.fatal = true → v = sresetWord) ∧ writeReg r v s = acceptCommand v s) := by
  unfold writeReg offerCommand
  cases hr : r.access <;> cases hb : busy s <;> simp
  cases hf : s.status.fatal <;> by_cases hv : v = sresetWord <;> simp [hv]

/-- A host write to an offset is a write to its register, or nothing. -/
theorem writeOffset_cases (off : Nat) (v : Word) (s : State) :
    writeOffset off v s = s ∨ ∃ r, regAt off = some r ∧ writeOffset off v s = writeReg r v s := by
  unfold writeOffset
  cases h : regAt off with
  | none => exact .inl rfl
  | some r => exact .inr ⟨r, rfl, rfl⟩

/-- A block step in a dwell. -/
theorem blockStep_dwell (s : State) (h : s.align.phase = .dwell) :
    blockStep s = .next (if dwellPassed s then alignPhase2 s else s) := by
  simp [blockStep, h]

/-- A block step with nothing to run. -/
theorem blockStep_idle (s : State) (h : s.align.phase = .idle) (hp : s.pending = none) : blockStep s = .next s := by
  simp [blockStep, h, hp]

/-- A block step of a pending word. -/
theorem blockStep_pending (s : State) (w : Word) (h : s.align.phase = .idle) (hp : s.pending = some w) :
    blockStep s = runWord w (takePending s) := by
  simp [blockStep, h, hp]

/-- What a step can do: wait, a host access, a block step, or the reset input. -/
theorem step_cases (s : State) :
    (s.env.agenda = [] ∧ step s = .next (beginStep [] s)) ∨
    (∃ a rest, s.env.agenda = .host a :: rest ∧ step s = hostAccess a (beginStep rest s)) ∨
    (∃ p rest, s.env.agenda = .block p :: rest ∧ step s = blockStep (setPorts p (beginStep rest s))) ∨
    (∃ rest, s.env.agenda = .reset :: rest ∧ step s = .next (resetBlock (beginStep rest s))) := by
  unfold step runAgenda
  cases h : s.env.agenda with
  | nil => simp
  | cons e rest => cases e <;> simp [runEvent]

end Sys2Proof.Machine
end

