-- ==== Sys2Proof/Laws/PerInstr.lean ====
section
/-! SUPPORT. Sys2Proof/Laws/PerInstr.lean: the families stated for all commands, one lemma per command. -/

namespace Sys2Proof.Laws.LegalOpcode

/-- A command's opcode lies in the map of 30_encoding.md R84, and only MODE_RATCHET has an immediate (R82, R85). -/
def Statement (i : Instr) : Prop :=
  i.opcode ∈ [0x00#8, 0x01#8, 0x02#8, 0x03#8, 0x10#8, 0x11#8, 0x12#8, 0x13#8, 0x14#8, 0xFF#8] ∧
    (i.opcode ≠ 0x13#8 → i.imm = 0#16)

theorem nop : Statement .nop := ⟨by decide, fun _ => rfl⟩
theorem tick : Statement .tick := ⟨by decide, fun _ => rfl⟩
theorem olTick : Statement .olTick := ⟨by decide, fun _ => rfl⟩
theorem align : Statement .align := ⟨by decide, fun _ => rfl⟩
theorem modeVelocity : Statement .modeVelocity := ⟨by decide, fun _ => rfl⟩
theorem modeAngle : Statement .modeAngle := ⟨by decide, fun _ => rfl⟩
theorem modeTorque : Statement .modeTorque := ⟨by decide, fun _ => rfl⟩
theorem modeRatchet (steps : BitVec 16) : Statement (.modeRatchet steps) :=
  ⟨by simp [Instr.opcode], fun h => absurd rfl h⟩
theorem modeLimitPos : Statement .modeLimitPos := ⟨by decide, fun _ => rfl⟩
theorem sreset : Statement .sreset := ⟨by decide, fun _ => rfl⟩

end Sys2Proof.Laws.LegalOpcode
end

