-- ==== Sys2Proof/Tests/Slice0.lean ====
section
/-! SUPPORT. Sys2Proof/Tests/Slice0.lean: words written out bit by bit from the opcode map, one-step tests whose values
come from 95_test_vectors.md, and for each statement with hypotheses a state and operands that meet them. -/

open Sys2Proof Sys2Proof.Machine

namespace Sys2Proof.Tests

/-! ### Helpers -/

/-- Correctly rounded sine and cosine at the arguments the tests drive at (the convention of 95_test_vectors.md). -/
def points : List TrigPoint :=
  [{ angle := 0x00000000#32, sin := 0x00000000#32, cos := 0x3F800000#32 },
   { angle := 0x3F000000#32, sin := 0x3EF57744#32, cos := 0x3F60A940#32 },
   { angle := 0x3DCCCCCD#32, sin := 0x3DCC7577#32, cos := 0x3F7EB898#32 },
   { angle := 0x3D8F5C2A#32, sin := 0x3D8F3E33#32, cos := 0x3F7F5F81#32 },
   { angle := 0x4096CBE4#32, sin := 0xBF800000#32, cos := 0x324CDE2E#32 }]

/-- The block after reset with SUPPLY_V 12, VOLT_LIMIT 6, the test points and these port answers. -/
def ready (p : Ports) : State :=
  { State.reset with
    motor := { State.reset.motor with supplyV := 0x41400000#32, voltLimit := 0x40C00000#32 },
    env := { Env.initial with ports := p, trig := points } }

/-- Ports that accept every duty, with a clock value and a sensor reading. -/
def answers (t : U64) (a : B32) : Ports := { clock := t, sensor := .ok a, pwmA := true, pwmB := true, pwmC := true }

/-- The same with a mode and a target set. -/
def inMode (m : Mode) (target : B32) (s : State) : State :=
  { s with motion := { s.motion with mode := m, target := target } }

/-- The same with a ratchet of 4 steps, its gains copied and VEL_LIMIT 0.5 (95_test_vectors.md P3). -/
def ratchet4 (a : B32) : State :=
  { ready (answers 1000#64 a) with
    motion := { State.reset.motion with mode := .ratchet, rSteps := 4#32, rRps := 0x3FC90FDB#32 },
    motor := { (ready (answers 1000#64 a)).motor with velLimit := 0x3F000000#32 },
    apid := { Pid.reset with kp := 0x41200000#32 },
    vpid := { Pid.reset with kp := 0x3F800000#32 } }

/-- The same in the dwell of an ALIGN started at clock 1000 with sensor 0.3 and POLE_PAIRS 7 (V9). -/
def dwelling : State :=
  { ready (answers 1000#64 0x3E99999A#32) with
    motor := { (ready (answers 1000#64 0#32)).motor with polePairs := 7#32 },
    sensor := { angle := 0x3E99999A#32, rev := 0#32, vel := 0#32, cont := 0x3E99999A#32, dt := 1000#64, t := 1000#64 },
    align := { phase := .dwell, t0 := 1000#64, eb := normalize (F32.mul 0x3E99999A#32 0x40E00000#32) } }

/-- The fatal state a LimitPos tick leaves (V1). -/
def halted : State :=
  { inMode .limitPos 0#32 (ready (answers 1000#64 0x3E800000#32)) with
    status := { Status.reset with fatal := true, err := .unimplMode } }

/-- The state with these events ahead of it. -/
def facing (l : List Event) (s : State) : State := { s with env := { s.env with agenda := l } }

/-- The next state, if there is one. -/
def after (o : Host.Outcome State Fault Refusal) : Option State :=
  match o with
  | .next t => some t
  | .fault _ => none
  | .refused _ => none

/-- The next state of a step that takes the word as its command. -/
def runs (w : Nat) (s : State) : Option State := after (step (s.withFetchWord 32 w))

/-! ### Well-formedness: each check refuses its ill-formed term -/

theorem test_wf_refuses_zero_steps : (Instr.modeRatchet 0#16).wf = false := by decide
theorem test_wf_refuses_olTick_without_openloop : Instr.olTick.wfWith false = false := by decide
theorem test_wf_admits : Instr.olTick.wf = true ∧ (Instr.modeRatchet 65535#16).wf = true := by decide

/-! ### Decoding: the words of R84, IMM16 then RSV then OPCODE, bit by bit -/

theorem test_decode_nop : decode 0b0000000000000000_00000000_00000000#32 = .ok .nop := by decide
theorem test_decode_tick : decode 0b0000000000000000_00000000_00000001#32 = .ok .tick := by decide
theorem test_decode_olTick : decode 0b0000000000000000_00000000_00000010#32 = .ok .olTick := by decide
theorem test_decode_align : decode 0b0000000000000000_00000000_00000011#32 = .ok .align := by decide
theorem test_decode_modeVelocity : decode 0b0000000000000000_00000000_00010000#32 = .ok .modeVelocity := by decide
theorem test_decode_modeAngle : decode 0b0000000000000000_00000000_00010001#32 = .ok .modeAngle := by decide
theorem test_decode_modeTorque : decode 0b0000000000000000_00000000_00010010#32 = .ok .modeTorque := by decide
theorem test_decode_modeRatchet :
    decode 0b0000000000000100_00000000_00010011#32 = .ok (.modeRatchet 4#16) ∧
    decode 0b1111111111111111_00000000_00010011#32 = .ok (.modeRatchet 65535#16) := by decide
theorem test_decode_modeLimitPos : decode 0b0000000000000000_00000000_00010100#32 = .ok .modeLimitPos := by decide
theorem test_decode_sreset : decode 0b0000000000000000_00000000_11111111#32 = .ok .sreset := by decide

/-- R61, R87: byte lane 0 holds the opcode, and anything but four bytes is refused. -/
theorem test_decode_bytes :
    decodeBytes [0x13#8, 0x00#8, 0x04#8, 0x00#8] = .ok (.modeRatchet 4#16) ∧
    decodeBytes [0x01#8] = .error .notOneWord ∧
    decodeTableWord 32 0x00040013 = some (.modeRatchet 4#16) ∧ decodeTableWord 32 0x00000113 = none := by decide

/-- The Illegal words of V1, each by its reason. -/
theorem test_decode_illegal :
    decode 0x00000100#32 = .error .reservedBits ∧ decode 0x00010000#32 = .error .strayImmediate ∧
    decode 0x00000013#32 = .error .zeroSteps ∧ decode 0x00040113#32 = .error .reservedBits ∧
    decode 0x0000000F#32 = .error .unassignedOpcode ∧ decode 0x80000001#32 = .error .strayImmediate ∧
    decodeWith false 0x00000002#32 = .error .noOpenLoop := by decide

/-! ### One step of each command, from 95_test_vectors.md -/

/-- R162: NOP after a SENSOR error. -/
theorem test_nop :
    (runs 0x00 { ready (answers 0#64 0#32) with status := { Status.reset with err := .sensor, vzdiv := true } }).map
      (fun t => t.status) = some { Status.reset with vzdiv := true } := by decide

/-- R180's worked example: a Torque tick with TARGET 2 from reset. -/
theorem test_tick_torque :
    (runs 0x01 (inMode .torque 0x40000000#32 (ready (answers 1000#64 0#32)))).map
      (fun t => (t.duty, t.sensor.t, t.status.vzdiv)) =
    some ({ a := 0x42480000#32, b := 0x4280DE15#32, c := 0x420E43D5#32 }, 1000#64, true) := by decide +kernel

/-- P3: the first Ratchet tick at 0.1 rad. -/
theorem test_tick_ratchet :
    (runs 0x01 (ratchet4 0x3DCCCCCD#32)).map (fun t => (t.motion.target, t.apid.prevOut, t.drive.vq, t.duty.b)) =
    some (0x00000000#32, 0xBF800000#32, 0xBF000000#32, 0x4239A36B#32) := by decide +kernel

/-- V10: OL_VEL 10, POLE_PAIRS 7, the first OL_TICK at clock 1000. -/
theorem test_olTick :
    (runs 0x02 { ready (answers 1000#64 0#32) with
        motor := { (ready (answers 0#64 0#32)).motor with polePairs := 7#32 },
        ol := { angle := 0#32, vel := 0x41200000#32, t := 0#64 } }).map
      (fun t => (t.ol.angle, t.drive.eangle, t.duty)) =
    some (0x3C23D70B#32, 0x3D8F5C2A#32, { a := 0x423D8233#32, b := 0x428F31FB#32, c := 0x41E33817#32 }) := by
  decide +kernel

/-- V9: the forcing pulse of ALIGN, and BUSY through its dwell. -/
theorem test_align :
    (runs 0x03 { ready (answers 1000#64 0x3E99999A#32) with
        motor := { (ready (answers 0#64 0#32)).motor with polePairs := 7#32 } }).map
      (fun t => (t.duty, busy t, t.align.t0, t.sensor.t)) =
    some ({ a := 0x42AF0000#32, b := 0x41480000#32, c := 0x41480000#32 }, true, 1000#64, 1000#64) := by
  decide +kernel

/-- V9: phase 2 at clock 701000 with sensor 0.9. -/
theorem test_align_phase2 :
    (after (step (facing [.block (answers 701000#64 0x3F666666#32)] dwelling))).map
      (fun t => (t.calOffset, t.sensor.rev, t.sensor.vel, t.sensor.cont, t.sensor.dt, statusWord t)) =
    some (0x3C89BE00#32, 0#32, 0#32, 0x3F666666#32, 700000#64, 0x00000004#32) := by decide

/-- R164's worked example, ARG0 = 5. -/
theorem test_modeVelocity :
    (runs 0x10 { State.reset with args := { arg0 := 0x40A00000#32, arg1 := 0#32 } }).map
      (fun t => (modeCode t.motion.mode, t.motion.target)) = some (0#32, 0x40A00000#32) := by decide

/-- R165's worked example, ARG0 = HALF_PI32. -/
theorem test_modeAngle :
    (runs 0x11 { State.reset with args := { arg0 := Config.halfPi32, arg1 := 0#32 } }).map
      (fun t => (modeCode t.motion.mode, t.motion.target)) = some (1#32, 0x3FC90FDB#32) := by decide

/-- R166's worked example, ARG0 = 2. -/
theorem test_modeTorque :
    (runs 0x12 { inMode .ratchet 0#32 State.reset with args := { arg0 := 0x40000000#32, arg1 := 0#32 } }).map
      (fun t => (modeCode t.motion.mode, t.motion.target)) = some (2#32, 0x40000000#32) := by decide

/-- V1: R_RPS for 4 steps and for 65535. -/
theorem test_modeRatchet :
    (runs 0x00040013 State.reset).map (fun t => (modeCode t.motion.mode, t.motion.rSteps, t.motion.rRps)) =
      some (3#32, 4#32, 0x3FC90FDB#32) ∧
    (runs 0xFFFF0013 State.reset).map (fun t => (t.motion.rSteps, t.motion.rRps)) =
      some (65535#32, 0x38C910A4#32) := by decide

/-- V8: LP_LOW, LP_HIGH and the zero TARGET. -/
theorem test_modeLimitPos :
    (runs 0x14 { State.reset with args := { arg0 := 0xBF800000#32, arg1 := 0x3F800000#32 } }).map
      (fun t => (modeCode t.motion.mode, t.motion.target, t.motion.lpLow, t.motion.lpHigh)) =
    some (4#32, 0#32, 0xBF800000#32, 0x3F800000#32) := by decide

/-- V1: SRESET in the fatal state. -/
theorem test_sreset :
    (runs 0xFF halted).map (fun t => (statusWord t, t.motor.supplyV, modeCode t.motion.mode)) =
      some (0x00000000#32, 0#32, 2#32) := by decide

/-- R272: after a reset nothing is known of outputs that were driving a duty, and no port was accessed. -/
theorem test_sreset_outputs :
    (runs 0xFF (afterDrive 0#32 0#32 0#32 { a := 0x42480000#32, b := 0x42480000#32, c := 0x42480000#32 }
      State.reset)).map (fun t => (t.env.outputs, t.duty.a, t.env.portLog)) =
    some ({ a := .unknown, b := .unknown, c := .unknown }, 0#32, []) := by decide

/-- R147's corner cases and R152, at values where the rounded formula would miss them. -/
theorem test_percent_exact :
    voltToPercent 0x4123D70C#32 0x4123D70C#32 = 0x42C80000#32 ∧ voltToPercent 0x80000001#32 0x7F000000#32 = 0#32 ∧
      voltToPercent 0x80000000#32 0x41400000#32 = 0x80000000#32 := by decide

/-- V1: a TICK accepted, then a NOP dropped while BUSY. -/
theorem test_bus_accept_and_drop :
    (after (step (facing [.host (.write 0x004#32 .word 0x00000001#32)] (ready (answers 0#64 0#32))))).map
      (fun t => (readOffset t 0x008, readOffset (writeOffset 0x004 0#32 t) 0x008)) =
    some (0x00010001#32, 0x00010021#32) := by decide

/-! ### Witnesses: a state and operands that meet the hypotheses of each statement that has any -/

theorem witness_DecodeOfEncode : (Instr.modeRatchet 1#16).wfWith false = true ∧ Instr.olTick.wfWith true = true := by
  decide

theorem witness_DecodedWordIsItsEncoding : decodeWith true 0xFFFF0013#32 = .ok (.modeRatchet 65535#16) := by decide

theorem witness_IllegalWordsAndTheirEffect :
    let s := facing [.block (answers 5#64 0#32)] { State.reset with pending := some 0x00000100#32 }
    s.env.agenda = [.block (answers 5#64 0#32)] ∧ s.align.phase = .idle ∧
      s.pending = some 0x00000100#32 ∧ decode 0x00000100#32 = .error .reservedBits := by decide

theorem witness_ReservedOpcodesAreIllegal :
    (0x04#8 ≤ (0x04#32).extractLsb' 0 8 ∧ (0x04#32).extractLsb' 0 8 ≤ 0x0F#8) ∧
    (0x15#8 ≤ (0xFE#32).extractLsb' 0 8 ∧ (0xFE#32).extractLsb' 0 8 ≤ 0xFE#8) ∧
    decodeWith false 0#32 = .ok .nop :=
  ⟨by simp, by simp, by decide⟩

theorem witness_ReadsHaveNoSideEffect :
    (0x1FC#32).toNat < 0x200 ∧ (0x1FC#32).toNat % 4 = 0 ∧
      (facing [.host (.read 0x1FC#32 .word)] dwelling).env.agenda = [.host (.read 0x1FC#32 .word)] := by decide

theorem witness_BusErrorsHaveNoEffect :
    (facing [.host (.read 0x1FF#32 .word)] State.reset).env.agenda = [.host (.read 0x1FF#32 .word)] ∧
      (0x1FF#32).toNat < 0x200 ∧ (0x1FF#32).toNat % 4 ≠ 0 ∧
    (facing [.host (.write 0x000#32 .half 1#32)] State.reset).env.agenda = [.host (.write 0x000#32 .half 1#32)] ∧
      (0x000#32).toNat < 0x200 ∧ Width.half ≠ .word ∧
    (facing [.host (.read 0x200#32 .word)] State.reset).env.agenda = [.host (.read 0x200#32 .word)] ∧
      0x200 ≤ (0x200#32).toNat := by decide

theorem witness_HostWriteChangesOneRegister :
    Reg.polePairs.access = .rw ∧ (Reg.vpid .opt).access = .rw ∧ Reg.olVel.access = .rw ∧ busy State.reset = false ∧
      (facing [.host (.write 0x030#32 .word 0#32)] State.reset).env.agenda =
        [.host (.write (BitVec.ofNat 32 Reg.polePairs.offset) .word 0#32)] := by decide

theorem witness_DroppedAndIgnoredWrites :
    regAt 0x004 = some .cmd ∧ Reg.cmd.access ≠ .ro ∧ regAt 0x144 = some .olVel ∧ Reg.olVel.access ≠ .ro ∧
      busy dwelling = true ∧ regAt 0x02C = none ∧ regAt 0x1FC = none ∧ regAt 0x14C = some .olTHi ∧
      Reg.olTHi.access = .ro := by decide

theorem witness_CommandWordAcceptance :
    let e := fun w : Word => [Event.host (.write 0x004#32 .word w)]
    ((facing (e 1#32) dwelling).env.agenda = e 1#32 ∧ busy (facing (e 1#32) dwelling) = true) ∧
    ((facing (e 0x000100FF#32) halted).env.agenda = e 0x000100FF#32 ∧
      (facing (e 0x000100FF#32) halted).status.fatal = true ∧ 0x000100FF#32 ≠ 0x000000FF#32) ∧
    ((facing (e 0x000000FF#32) halted).env.agenda = e 0x000000FF#32 ∧
      busy (facing (e 0x000000FF#32) halted) = false ∧
      ((facing (e 0x000000FF#32) halted).status.fatal = true → 0x000000FF#32 = 0x000000FF#32)) ∧
    ((facing (e 1#32) State.reset).env.agenda = e 1#32 ∧ busy (facing (e 1#32) State.reset) = false ∧
      ((facing (e 1#32) State.reset).status.fatal = true → 1#32 = 0x000000FF#32)) := by decide

theorem witness_ResetInputAndSresetLeaveTheResetState : (facing [.reset] dwelling).env.agenda = [.reset] := by
  decide

theorem witness_ConfigurationCheck :
    cfgOk State.reset = false ∧ cfgOk (ready (answers 0#64 0#32)) = true ∧
      cfgOk { ready (answers 0#64 0#32) with vpid := { Pid.reset with opt := 1#2, limit := 0x7FC00000#32 } } = false := by
  decide

/-- A ready block whose last record was at clock 5000. -/
def recordedAt5000 (p : Ports) : State :=
  { ready p with sensor := { State.reset.sensor with t := 5000#64 } }

theorem witness_RefusedTickWritesOnlyTheResult :
    (cfgOk (recordedAt5000 (answers 4999#64 0#32)) = true ∧ 4999#64 < 5000#64) ∧
    (recordedAt5000 (answers 5000#64 0#32)).env.ports.clock = (recordedAt5000 (answers 5000#64 0#32)).sensor.t ∧
    ((recordedAt5000 (answers 5001#64 0#32)).sensor.t < 5001#64) ∧
    ({ answers 5001#64 0#32 with sensor := .err } : Ports).sensor = .err ∧
    (answers 5001#64 0x40C90FDB#32).sensor = .ok 0x40C90FDB#32 ∧ inRange 0x40C90FDB#32 = false := by decide

theorem witness_RefusedAlignAndOlTickWriteOnlyTheResult :
    let s := { recordedAt5000 (answers 4999#64 0#32) with ol := { State.reset.ol with t := 5000#64 } }
    (cfgOk s = true ∧ s.env.ports.clock < s.ol.t ∧ s.env.ports.clock < s.sensor.t) ∧
    ((recordedAt5000 (answers 5000#64 0xB22BCC77#32)).sensor.t ≤ 5000#64 ∧ inRange 0xB22BCC77#32 = false) ∧
    cfgOk (recordedAt5000 { answers 5000#64 0#32 with sensor := .err }) = true := by decide

theorem witness_SensorRecordRule : (1000#64 : U64) ≠ State.reset.sensor.t := by decide

/-- A safe state after an alignment, at the angle its offset was taken at: POLE_PAIRS 7, angle 3.0. -/
def alignedAt3 : State :=
  { ready (answers 0#64 0#32) with
    motor := { (ready (answers 0#64 0#32)).motor with polePairs := 7#32 },
    sensor := { angle := 0x40400000#32, rev := 0#32, vel := 0#32, cont := 0x40400000#32, dt := 1#64, t := 1#64 },
    calOffset := 0x4009A0DE#32, status := { Status.reset with aligned := true } }

theorem safe_alignedAt3 : SafeState alignedAt3 := by
  refine ⟨?_, ?_, ?_, ?_, ?_, ?_, ?_, ?_, ?_, ?_, ?_, ?_, ?_, ?_⟩ <;>
    first | decide | exact ⟨by decide, by decide⟩

/-- Each case of `normalize`, each of the electrical angle. -/
theorem witness_ElectricalAngleRule :
    let s := { State.reset with
      motor := { State.reset.motor with polePairs := 7#32 },
      sensor := { State.reset.sensor with angle := 0x3F800000#32 } }
    (F32.lt (F32.fmod 0xBF800000#32 0x40C90FDB#32) 0#32 = true ∧ F32.lt (F32.fmod 0x80000000#32 0x40C90FDB#32) 0#32 = false ∧
      F32.isFinite 0x7F800000#32 = false) ∧
    alignedAt3.status.aligned = true ∧
    s.status.aligned = false ∧ s.sensor.angle = 0x3F800000#32 ∧ s.motor.polePairs = 7#32 := by decide

theorem witness_AlignedPositionReadsZero :
    SafeState alignedAt3 ∧ alignedAt3.status.aligned = true ∧
      alignedAt3.calOffset = rawElectricalAngle alignedAt3.sensor.angle alignedAt3 :=
  ⟨safe_alignedAt3, by decide, by decide⟩

theorem witness_PidIntegralStaysWithinItsLimit :
    let P : Pid := { Pid.reset with ki := 0x42C80000#32, limit := 0x3F800000#32, opt := 1#2 }
    P.opt.getLsbD 0 = true ∧ F32.ge P.limit 0#32 = true ∧
      F32.isNaN (P.advance 0x41200000#32 0#32 0x3C23D70A#32).integ = false := by decide

theorem witness_PidZeroGainsReturnTheIntegral :
    let P : Pid := { Pid.reset with limit := 0x3F800000#32, opt := 1#2, integ := 0x3F800000#32 }
    let Q : Pid := { Pid.reset with integ := 0x3F800000#32 }
    (F32.isZero P.kp = true ∧ F32.isZero P.ki = true ∧ F32.isZero P.kd = true ∧ P.opt.getLsbD 1 = false ∧
      F32.isZero (F32.sub 0#32 0#32) = true ∧ F32.isFinite P.integ = true ∧ F32.isFinite P.prevErr = true ∧
      F32.isFinite 0x3A83126F#32 = true ∧ F32.gt 0x3A83126F#32 0#32 = true ∧ P.opt.getLsbD 0 = true ∧
      F32.ge P.limit 0#32 = true ∧ F32.ge P.limit (F32.abs P.integ) = true) ∧
    Q.opt.getLsbD 0 = false ∧ Q.opt.getLsbD 1 = false ∧ F32.isFinite Q.integ = true := by decide

theorem witness_VoltLimitBoundsBothVoltages :
    let s := { ready (answers 0#64 0#32) with motor := { (ready (answers 0#64 0#32)).motor with opt := 4#3 } }
    F32.ge s.motor.voltLimit 0#32 = true ∧ F32.isNaN (qVoltage 0x41200000#32 s) = false ∧
      F32.isNaN (dVoltage 0x41200000#32 s) = false := by decide

theorem witness_ScenarioD :
    let s := { ready (answers 0#64 0#32) with motor := { (ready (answers 0#64 0#32)).motor with voltLimit := 0x40400000#32 } }
    s.motor.opt = 0#3 ∧ s.motor.voltLimit = 0x40400000#32 := by decide

theorem witness_DriveWorkedExample :
    let s := ready (answers 0#64 0#32)
    s.motor.supplyV = 0x41400000#32 ∧ sin32 s 0#32 = 0#32 ∧ cos32 s 0#32 = 0x3F800000#32 := by decide

theorem witness_DutyPercentagesAreBounded :
    F32.isFinite 0x41400000#32 = true ∧ F32.gt 0x41400000#32 0#32 = true ∧ F32.isNaN 0x7F800000#32 = false ∧
      F32.isNaN 0x80000000#32 = false ∧ F32.isZero 0x80000000#32 = true := by decide

theorem witness_DutyClampsAreExact :
    F32.isFinite 0x41400000#32 = true ∧ F32.gt 0x41400000#32 0#32 = true ∧
      F32.lt 0x80000001#32 0#32 = true ∧ F32.ge 0x41400000#32 0x41400000#32 = true ∧
      F32.isNaN 0x7FC00000#32 = true ∧
      (F32.ge 0x80000000#32 0#32 = true ∧ F32.lt 0x80000000#32 0x41400000#32 = true) ∧
      (F32.ge 0x413FFFFF#32 0#32 = true ∧ F32.lt 0x413FFFFF#32 0x41400000#32 = true) := by decide

/-- What a drive of the tests offers. -/
def offered (tq : B32) (r : State) : Duty := dutiesFor (qVoltage tq r) (dVoltage tq r) (electricalAngle r) r

theorem witness_TorqueTickCompletes :
    let s := inMode .torque 0x40000000#32 (ready (answers 1000#64 0#32))
    TickAdmits 0#32 s ∧ s.motion.mode = .torque ∧ AllPortsAccept s ∧
      (offered s.motion.target (outsideDeadband (recorded 0#32 s))).anyNaN = false :=
  ⟨⟨by decide, by decide, by decide, by decide⟩, by decide,
    ⟨by decide, by decide, by decide⟩, by decide +kernel⟩

theorem witness_VelocityTickCompletes :
    let s := { inMode .velocity 0x41200000#32 (ready (answers 1000#64 0#32)) with
      vpid := { Pid.reset with kp := 0x3DCCCCCD#32, ki := 0x3F800000#32 } }
    let vel := (recorded 0#32 s).sensor.vel
    let dt := F32.secs (s.env.ports.clock - s.sensor.t)
    let r := outsideDeadband { (recorded 0#32 s) with vpid := s.vpid.advance s.motion.target vel dt }
    TickAdmits 0#32 s ∧ s.motion.mode = .velocity ∧ AllPortsAccept s ∧
      (offered (s.vpid.output s.motion.target vel dt) r).anyNaN = false :=
  ⟨⟨by decide, by decide, by decide, by decide⟩, by decide,
    ⟨by decide, by decide, by decide⟩, by decide +kernel⟩

/-- R183's worked example: Angle mode, TARGET 1, APID_KP 2, VPID_KP 0.5, sensor 0.5. -/
def angleTick : State :=
  { inMode .angle 0x3F800000#32 (ready (answers 1000#64 0x3F000000#32)) with
    apid := { Pid.reset with kp := 0x40000000#32 }, vpid := { Pid.reset with kp := 0x3F000000#32 } }

theorem witness_AngleTickCompletes :
    let s := angleTick
    let n := (recorded 0x3F000000#32 s).sensor
    let dt := F32.secs (s.env.ports.clock - s.sensor.t)
    let vsp := s.apid.output s.motion.target n.cont dt
    let r := outsideDeadband { (recorded 0x3F000000#32 s) with
      apid := s.apid.advance s.motion.target n.cont dt, vpid := s.vpid.advance vsp n.vel dt }
    TickAdmits 0x3F000000#32 s ∧ s.motion.mode = .angle ∧ AllPortsAccept s ∧
      F32.lt (F32.abs (F32.sub s.motion.target n.cont)) 0x3CF5C28F#32 = false ∧
      (offered (s.vpid.output vsp n.vel dt) r).anyNaN = false :=
  ⟨⟨by decide, by decide, by decide, by decide⟩, by decide,
    ⟨by decide, by decide, by decide⟩, by decide, by decide +kernel⟩

theorem witness_AngleDeadbandTickChangesOnlyTheRecord :
    let s := inMode .angle 0x3F83D708#32 (ready (answers 1000#64 0x3F800000#32))
    TickAdmits 0x3F800000#32 s ∧ s.motion.mode = .angle ∧
      F32.lt (F32.abs (F32.sub s.motion.target (recorded 0x3F800000#32 s).sensor.cont)) 0x3CF5C28F#32 = true :=
  ⟨⟨by decide, by decide, by decide, by decide⟩, by decide, by decide⟩

theorem witness_RatchetTickCompletes :
    let s := ratchet4 0x3DCCCCCD#32
    let n := (recorded 0x3DCCCCCD#32 s).sensor
    let target := F32.mul (F32.roundHalfAway (F32.div n.cont s.motion.rRps)) s.motion.rRps
    let dt := F32.secs (s.env.ports.clock - s.sensor.t)
    let vsp := F32.clamp (s.apid.output target n.cont dt) (F32.neg s.motor.velLimit) s.motor.velLimit
    let r := outsideDeadband { (recorded 0x3DCCCCCD#32 s) with
      motion := { s.motion with target := target },
      apid := s.apid.advance target n.cont dt, vpid := s.vpid.advance vsp n.vel dt }
    TickAdmits 0x3DCCCCCD#32 s ∧ s.motion.mode = .ratchet ∧ AllPortsAccept s ∧
      F32.lt (F32.abs (F32.sub target n.cont)) 0x3C23D70A#32 = false ∧
      (offered (s.vpid.output vsp n.vel dt) r).anyNaN = false :=
  ⟨⟨by decide, by decide, by decide, by decide⟩, by decide,
    ⟨by decide, by decide, by decide⟩, by decide +kernel, by decide +kernel⟩

theorem witness_RatchetDeadbandTickMovesTheTarget :
    let s := ratchet4 0x3FC851EC#32
    let n := (recorded 0x3FC851EC#32 s).sensor
    let target := F32.mul (F32.roundHalfAway (F32.div n.cont s.motion.rRps)) s.motion.rRps
    TickAdmits 0x3FC851EC#32 s ∧ s.motion.mode = .ratchet ∧
      F32.lt (F32.abs (F32.sub target n.cont)) 0x3C23D70A#32 = true :=
  ⟨⟨by decide, by decide, by decide, by decide⟩, by decide, by decide +kernel⟩

theorem witness_LimitPosTickIsFatal :
    let s := inMode .limitPos 0#32 (ready (answers 1000#64 0x3E800000#32))
    TickAdmits 0x3E800000#32 s ∧ s.motion.mode = .limitPos :=
  ⟨⟨by decide, by decide, by decide, by decide⟩, by decide⟩

theorem witness_RefusedDutyKeepsEarlierPhases :
    let u := inMode .torque 0x40000000#32 (ready { answers 1000#64 0#32 with pwmB := false })
    (∀ p ∈ [({ answers 1000#64 0#32 with pwmA := false }, Phase.a), ({ answers 1000#64 0#32 with pwmB := false }, .b),
        ({ answers 1000#64 0#32 with pwmC := false }, .c)],
      let s := inMode .torque 0x40000000#32 (ready p.1)
      TickReachesDrive 0#32 s s.motion.target (outsideDeadband (recorded 0#32 s)) ∧
        s.env.ports.firstRefused = some p.2) ∧
    (offered u.motion.target (outsideDeadband (recorded 0#32 u))).anyNaN = false := by
  refine ⟨?_, by decide +kernel⟩
  simp only [List.forall_mem_cons]
  refine ⟨?_, ?_, ?_, fun _ h => absurd h (by simp)⟩ <;>
    exact ⟨⟨⟨by decide, by decide, by decide, by decide⟩, rfl, rfl⟩, by decide⟩

/-- The three modes with PIDs reach their drive too, here with a port that refuses phase A. -/
theorem witness_TickReachesDrive_with_pids :
    let refusing := fun s : State => { s with env := { s.env with ports := { s.env.ports with pwmA := false } } }
    (∃ tq r, TickReachesDrive 0#32 (refusing (inMode .velocity 0x41200000#32 (ready (answers 1000#64 0#32)))) tq r) ∧
    (∃ tq r, TickReachesDrive 0x3F000000#32 (refusing angleTick) tq r) ∧
    (∃ tq r, TickReachesDrive 0x3DCCCCCD#32 (refusing (ratchet4 0x3DCCCCCD#32)) tq r) ∧
    (refusing angleTick).env.ports.firstRefused = some .a :=
  ⟨⟨_, _, ⟨by decide, by decide, by decide, by decide⟩, rfl, rfl⟩,
    ⟨_, _, ⟨by decide, by decide, by decide, by decide⟩, by decide, rfl, rfl⟩,
    ⟨_, _, ⟨by decide, by decide, by decide, by decide⟩, by decide +kernel, rfl, rfl⟩, by decide⟩

theorem witness_NanDutyEndsInNumeric :
    let s := inMode .torque 0x7FC00000#32 (ready (answers 1000#64 0#32))
    TickReachesDrive 0#32 s s.motion.target (outsideDeadband (recorded 0#32 s)) ∧
      (offered s.motion.target (outsideDeadband (recorded 0#32 s))).anyNaN = true :=
  ⟨⟨⟨by decide, by decide, by decide, by decide⟩, rfl, rfl⟩, dutiesFor_anyNaN _ _ _ _ (qVoltage_isNaN _ _ (by decide))⟩

/-- R221's worked example, its clock step done with these port answers and sine points. -/
def olReady (p : Ports) (l : List TrigPoint) : State :=
  { ready p with
    motor := { (ready p).motor with polePairs := 7#32 },
    ol := { angle := 0#32, vel := 0x41200000#32, t := 0#64 },
    env := { (ready p).env with trig := l } }

/-- What the OL_TICK of a state offers. -/
def olOffered (s : State) : Duty :=
  let angle := F32.add s.ol.angle (F32.mul s.ol.vel (F32.secs (s.env.ports.clock - s.ol.t)))
  dutiesFor (F32.mul s.motor.voltLimit 0x3F000000#32) 0#32 (F32.mul angle (F32.ofNat s.motor.polePairs.toNat))
    { s with ol := { s.ol with angle := angle, t := s.env.ports.clock }, env := s.env.logged [.clock] }

theorem witness_OlTickCompletes :
    let s := olReady (answers 1000#64 0#32) points
    let u := olReady { answers 1000#64 0#32 with pwmC := false } points
    let n := olReady (answers 1000#64 0#32) [{ angle := 0x3D8F5C2A#32, sin := 0x7FC00000#32, cos := 0x7FC00000#32 }]
    (OlTickAdmits s ∧ AllPortsAccept s ∧ (olOffered s).anyNaN = false) ∧
    (OlTickAdmits u ∧ u.env.ports.firstRefused = some .c ∧ olOffered u = olOffered s) ∧
    (OlTickAdmits n ∧ (olOffered n).anyNaN = true) :=
  ⟨⟨⟨by decide, by decide⟩, ⟨by decide, by decide, by decide⟩, by decide +kernel⟩,
    ⟨⟨by decide, by decide⟩, by decide, rfl⟩,
    ⟨⟨by decide, by decide⟩, dutiesFor_anyNaN_of_sin _ _ _ _ (by decide +kernel)⟩⟩

theorem witness_AlignPulseEntersTheDwell :
    let s := ready (answers 1000#64 0x3E99999A#32)
    AlignAdmits 0x3E99999A#32 s ∧ AllPortsAccept s ∧
      (dutiesFor (F32.mul s.motor.supplyV 0x3F000000#32) 0#32 s.motor.alignAngle
        (recorded 0x3E99999A#32 s)).anyNaN = false :=
  ⟨⟨by decide, by decide, by decide, by decide⟩,
    ⟨by decide, by decide, by decide⟩, by decide +kernel⟩

/-- The pulse fails at phase B, and where a platform's sine is a NaN it fails before any port. -/
theorem witness_FailedPulseEntersNoDwell :
    let s := ready { answers 1000#64 0x3E99999A#32 with pwmB := false }
    let u := { ready (answers 1000#64 0x3E99999A#32) with
      env := { (ready (answers 1000#64 0x3E99999A#32)).env with
        trig := [{ angle := 0x4096CBE4#32, sin := 0x7FC00000#32, cos := 0x7FC00000#32 }] } }
    AlignAdmits 0x3E99999A#32 s ∧ s.env.ports.firstRefused = some .b ∧
      (dutiesFor (F32.mul s.motor.supplyV 0x3F000000#32) 0#32 s.motor.alignAngle
        (recorded 0x3E99999A#32 s)).anyNaN = false ∧ AlignAdmits 0x3E99999A#32 u ∧
      (dutiesFor (F32.mul u.motor.supplyV 0x3F000000#32) 0#32 u.motor.alignAngle
        (recorded 0x3E99999A#32 u)).anyNaN = true :=
  ⟨⟨by decide, by decide, by decide, by decide⟩, by decide, by decide +kernel,
    ⟨by decide, by decide, by decide, by decide⟩, dutiesFor_anyNaN_of_sin _ _ _ _ (by decide)⟩

/-- The state dwelling, with a block event ahead that meets these answers. -/
def dwellingFacing (p : Ports) : State := facing [.block p] dwelling

theorem witness_DwellHoldsUntilItHasPassed :
    let p := answers 700999#64 0#32
    let e := fun r : Reg => [Event.host (.write (BitVec.ofNat 32 r.offset) .word 0xFF#32)]
    ((dwellingFacing p).align.phase = .dwell ∧ (dwellingFacing p).env.agenda = [.block p] ∧
      p.clock.toNat < (dwellingFacing p).align.t0.toNat + 700000) ∧
    ((facing (e .cmd) dwelling).align.phase = .dwell ∧ (facing (e .cmd) dwelling).env.agenda = e .cmd ∧
      Reg.cmd.access ≠ .ro) ∧
    ((facing (e .arg0) dwelling).env.agenda = e .arg0 ∧ Reg.arg0.access ≠ .ro) := by decide

theorem witness_AlignmentSucceeds :
    let p := answers 701000#64 0x3F666666#32
    let s := dwellingFacing p
    s.env.agenda = [.block p] ∧ s.align.phase = .dwell ∧ s.align.t0.toNat + 700000 ≤ p.clock.toNat ∧
      p.sensor = .ok 0x3F666666#32 ∧ inRange 0x3F666666#32 = true ∧
      F32.eq (normalize (F32.mul 0x3F666666#32 (F32.ofNat s.motor.polePairs.toNat))) s.align.eb = false := by decide

theorem witness_UnmovedAlignmentIsFatal :
    let p := answers 701000#64 0x3E99999A#32
    let s := dwellingFacing p
    s.env.agenda = [.block p] ∧ s.align.phase = .dwell ∧ s.align.t0.toNat + 700000 ≤ p.clock.toNat ∧
      p.sensor = .ok 0x3E99999A#32 ∧ inRange 0x3E99999A#32 = true ∧
      F32.eq (normalize (F32.mul 0x3E99999A#32 (F32.ofNat s.motor.polePairs.toNat))) s.align.eb = true := by decide

theorem witness_FailedSensorAbortsPhase2 :
    let p := { answers 701000#64 0#32 with sensor := .err }
    let q := answers 701000#64 0x40C90FDB#32
    ((dwellingFacing p).env.agenda = [.block p] ∧ (dwellingFacing p).align.phase = .dwell ∧
      (dwellingFacing p).align.t0.toNat + 700000 ≤ p.clock.toNat ∧ p.sensor = .err) ∧
    ((dwellingFacing q).env.agenda = [.block q] ∧ (dwellingFacing q).align.phase = .dwell ∧
      (dwellingFacing q).align.t0.toNat + 700000 ≤ q.clock.toNat ∧ q.sensor = .ok 0x40C90FDB#32 ∧
      inRange 0x40C90FDB#32 = false) := by decide

theorem witness_StepRunsTheDecodedCommand :
    let s := facing [.block (answers 0#64 0#32)] { State.reset with pending := some 0x00040013#32 }
    s.env.agenda = [.block (answers 0#64 0#32)] ∧ s.align.phase = .idle ∧ s.pending = some 0x00040013#32 ∧
      decode 0x00040013#32 = .ok (.modeRatchet 4#16) := by decide

theorem witness_BusyFallsAtTheFirstBlockStep :
    let s := facing [.block (answers 0#64 0#32)] { State.reset with pending := some 0x00000003#32 }
    s.env.agenda = [.block (answers 0#64 0#32)] ∧ s.align.phase = .idle ∧ s.pending = some 0x00000003#32 := by
  decide

/-- A step that drives: its port log holds the three duties. -/
theorem witness_PortsAreAccessedInOrder_and_EveryOfferedDutyIsLegal :
    (runs 0x01 (inMode .torque 0x40000000#32 (ready (answers 1000#64 0#32)))).map (fun t => t.env.portLog) =
      some [.clock, .sensor, .pwm .a 0x42480000#32, .pwm .b 0x4280DE15#32, .pwm .c 0x420E43D5#32] := by decide +kernel

/-- A step whose port B refuses: two duties are offered; and a host access, which asks no port. -/
theorem witness_PortsAreAccessedInOrder_refused :
    ((runs 0x01 (inMode .torque 0x40000000#32 (ready { answers 1000#64 0#32 with pwmB := false }))).map
      (fun t => t.env.portLog) = some [.clock, .sensor, .pwm .a 0x42480000#32, .pwm .b 0x4280DE15#32]) ∧
    (after (step (facing [.host (.read 0x008#32 .word)] State.reset))).map (fun t => t.env.portLog) = some [] := by
  decide +kernel

/-- `dwelling` before a block step at which the dwell is over and the rotor has moved. -/
def dwellingMoved : State := dwellingFacing (answers 701000#64 0x3F666666#32)

theorem safe_dwellingMoved : SafeState dwellingMoved := by
  refine ⟨?_, ?_, ?_, ?_, ?_, ?_, ?_, ?_, ?_, ?_, ?_, ?_, ?_, ?_⟩ <;>
    first | decide | exact ⟨by decide, by decide⟩

/-- A safe state whose next step is phase 2 of an ALIGN. -/
theorem witness_EveryStepKeepsTheStateSafe :
    SafeState dwellingMoved ∧ (after (step dwellingMoved)).isSome = true :=
  ⟨safe_dwellingMoved, by decide⟩

theorem safe_halted : SafeState halted := by
  refine ⟨?_, ?_, ?_, ?_, ?_, ?_, ?_, ?_, ?_, ?_, ?_, ?_, ?_, ?_⟩ <;>
    first | decide | exact ⟨by decide, by decide⟩

theorem witness_FatalStateIsLeftOnlyByReset :
    SafeState halted ∧ halted.status.fatal = true ∧ (∃ t, step halted = .next t) ∧
      (facing [.reset] halted).status.fatal = true ∧ ∃ t, step (facing [.reset] halted) = .next t :=
  ⟨safe_halted, rfl, ⟨beginStep [] halted, rfl⟩, rfl, ⟨resetBlock (beginStep [] halted), rfl⟩⟩

theorem witness_OnlyTickAndAlignmentSetTheFlags :
    let s := (inMode .limitPos 0#32 (ready (answers 1000#64 0x3E800000#32))).withFetchWord 32 0x01
    let u := dwellingFacing (answers 701000#64 0x3F666666#32)
    (s.status.fatal = false ∧ (after (step s)).map (fun t => t.status.fatal) = some true) ∧
    (u.status.aligned = false ∧ (after (step u)).map (fun t => t.status.aligned) = some true) := by decide +kernel

end Sys2Proof.Tests
end

/-! SUPPORT. Proofs of the statements about the state (10_state.md): the bounds on the integral and the voltages; the
register window, STATUS and the acceptance of a command; the safe states and the two flags. -/

namespace Sys2Proof.Machine

/-! ### The clamp to a symmetric range: the PID integral and the voltages (10_state.md R40, R51) -/

/-- What the clamp to `[-l, l]` answers has a magnitude of at most `l`, unless it is a NaN. -/
theorem F32.clamp_symmetric_abs_le (x l : B32) (hl : F32.ge l Config.zero = true)
    (hx : F32.isNaN (F32.clamp x (F32.neg l) l) = false) :
    F32.ge l (F32.abs (F32.clamp x (F32.neg l) l)) = true := by
  obtain ⟨hn, -, hk⟩ := (F32.ge_iff _ _).1 hl
  have hzero : F32.key Config.zero = 0 := by decide
  have hneg : F32.isNaN (F32.neg l) = false := by rw [F32.isNaN_neg, hn]
  have hxn : F32.isNaN x = false := by rw [← F32.clamp_isNaN_iff x _ _ hneg hn, hx]
  obtain ⟨-, hlo, hhi⟩ := F32.clamp_bounds x (F32.neg l) l hxn hneg hn (by rw [F32.key_neg]; omega)
  rw [F32.key_neg] at hlo
  rw [F32.ge_iff, F32.isNaN_abs, F32.key_abs]
  exact ⟨hn, hx, abs_le.2 ⟨hlo, hhi⟩⟩

/-- Settles O26: the last thing done to the integral is the clamp to its limit. -/
theorem pidIntegralStaysWithinItsLimit : Obligations.PidIntegralStaysWithinItsLimit := by
  intro P target measured dt hen hlimit hnan
  have hclamp : ∃ x, (P.advance target measured dt).integ = F32.clamp x (F32.neg P.limit) P.limit :=
    ⟨_, if_pos hen⟩
  obtain ⟨x, hx⟩ := hclamp
  rw [hx] at hnan ⊢
  exact F32.clamp_symmetric_abs_le x P.limit hlimit hnan

/-- Settles O29: both voltages leave `calculate_qd` through the clamp, but for an absent d, which is `+0.0`. -/
theorem voltLimitBoundsBothVoltages : Obligations.VoltLimitBoundsBothVoltages := by
  intro tq s hlimit
  refine ⟨F32.clamp_symmetric_abs_le _ _ hlimit, fun hnan => ?_⟩
  cases hl : s.motor.lEn with
  | true =>
    simp only [dVoltage, hl, if_true] at hnan ⊢
    exact F32.clamp_symmetric_abs_le _ _ hlimit hnan
  | false =>
    simp only [dVoltage, hl, Bool.false_eq_true, if_false]
    exact hlimit

/-! ### The register window -/

/-- Reading at a register's own offset reads that register. -/
@[simp] theorem readOffset_offset (s : State) (r : Reg) : readOffset s r.offset = readReg s r := by
  simp [readOffset, (regAt_offset r).1]

/-- Writing at a register's own offset writes that register. -/
@[simp] theorem writeOffset_offset (r : Reg) (v : Word) (s : State) : writeOffset r.offset v s = writeReg r v s := by
  simp [writeOffset, (regAt_offset r).1]

/-- What the map says of a register: its offset, its access right and what it reads as. -/
def mapRow (s : State) (r : Reg) : Nat × Access × Word := (r.offset, r.access, readReg s r)

/-- Settles O6: the rows are those of the registers in the order of the map. -/
theorem registersStandAtTheirOffsets : Obligations.RegistersStandAtTheirOffsets := by
  refine ⟨regAt_offset, by decide, fun s => ?_⟩
  show ∀ row ∈ (Reg.presentWith true).map (mapRow s), _
  intro row hrow
  obtain ⟨r, -, rfl⟩ := List.mem_map.1 hrow
  exact ⟨congrArg (Option.map Reg.access) (regAt_offset r).1, readOffset_offset s r⟩

/-- Settles O7: ID is a constant of the register file, in the state before a write and after it. -/
theorem idReadsItsConstant : Obligations.IdReadsItsConstant := fun s v =>
  ⟨readOffset_offset s .id, readOffset_offset (writeOffset 0x000 v s) .id⟩

/-! ### The fields of STATUS (10_state.md R24) -/

theorem toNat_append_add {n m : Nat} (x : BitVec n) (y : BitVec m) : (x ++ y).toNat = x.toNat * 2 ^ m + y.toNat := by
  rw [BitVec.toNat_append, ← Nat.shiftLeft_add_eq_or_of_lt y.isLt, Nat.shiftLeft_eq]

/-- STATUS as a number: each field at the place its bits give it. -/
theorem statusWord_toNat (s : State) : (statusWord s).toNat =
    s.status.lastOp.toNat * 2 ^ 16 + (phaseCode s.status.errCh).toNat * 2 ^ 12 + (errCode s.status.err).toNat * 2 ^ 8 +
      s.status.wdrop.toNat * 2 ^ 5 + s.status.vzdiv.toNat * 2 ^ 4 + s.status.deadband.toNat * 2 ^ 3 +
      s.status.aligned.toNat * 2 ^ 2 + s.status.fatal.toNat * 2 + (busy s).toNat := by
  refine (toNat_append_add _ _).trans ?_
  simp only [toNat_append_add, BitVec.toNat_ofBool, BitVec.toNat_ofNat]
  omega

/-- A bit of a word, read off the word's number. -/
theorem getLsbD_of_toNat {w : Word} {i : Nat} {b : Bool} (h : w.toNat / 2 ^ i % 2 = b.toNat) : w.getLsbD i = b := by
  rw [BitVec.getLsbD, Nat.testBit_eq_decide_div_mod_eq, h]
  cases b <;> rfl

/-- A field of a word, read off the word's number. -/
theorem extractLsb'_of_toNat {w : Word} {start len : Nat} {x : BitVec len}
    (h : w.toNat / 2 ^ start % 2 ^ len = x.toNat) : w.extractLsb' start len = x := by
  apply BitVec.eq_of_toNat_eq
  rw [BitVec.extractLsb'_toNat, Nat.shiftRight_eq_div_pow, h]

theorem busy_iff (s : State) : busy s = true ↔ (s.pending ≠ none ∨ s.align.phase = .dwell) := by
  simp [busy, Option.isSome_iff_ne_none]

theorem not_dwelling_of_not_busy {s : State} (hb : busy s = false) : s.align.phase ≠ .dwell :=
  fun hd => by simp [(busy_iff s).2 (.inr hd)] at hb

/-- Settles O8: each clause is a digit of STATUS as a number. -/
theorem statusFieldsStandInTheirBits : Obligations.StatusFieldsStandInTheirBits := by
  intro s w
  have hw : w.toNat = _ := (congrArg BitVec.toNat (readOffset_offset s .status)).trans (statusWord_toNat s)
  have hop := s.status.lastOp.isLt
  have hch := (phaseCode s.status.errCh).isLt
  have herr := (errCode s.status.err).isLt
  have hwdrop := s.status.wdrop.toNat_le
  have hvzdiv := s.status.vzdiv.toNat_le
  have hdeadband := s.status.deadband.toNat_le
  have haligned := s.status.aligned.toNat_le
  have hfatal := s.status.fatal.toNat_le
  have hbusy := (busy s).toNat_le
  clear_value w
  have bit0 : w.getLsbD 0 = busy s := getLsbD_of_toNat (by omega)
  have err : w.extractLsb' 8 4 = errCode s.status.err := extractLsb'_of_toNat (by omega)
  have errCh : w.extractLsb' 12 2 = phaseCode s.status.errCh := extractLsb'_of_toNat (by omega)
  exact ⟨bit0 ▸ busy_iff s, getLsbD_of_toNat (by omega), getLsbD_of_toNat (by omega), getLsbD_of_toNat (by omega),
    getLsbD_of_toNat (by omega), getLsbD_of_toNat (by omega), extractLsb'_of_toNat (by simp; omega), err, errCh,
    extractLsb'_of_toNat (by simp; omega), extractLsb'_of_toNat (by omega), extractLsb'_of_toNat (by simp; omega)⟩

/-! ### What a store leaves in each field (10_state.md R21, R38 to R49) -/

section Stores
variable (v : Word) (r : Reg)

/-- The one word not taken: 0 for POLE_PAIRS (10_state.md R39). -/
@[simp] theorem Motor.store_polePairs (m : Motor) :
    (m.store v r).polePairs = if r = .polePairs ∧ v ≠ 0#32 then v else m.polePairs := by
  cases r <;> simp [Motor.store]
  split <;> simp_all

/-- MOTOR_OPT keeps three bits (10_state.md R41). -/
@[simp] theorem Motor.store_opt (m : Motor) :
    (m.store v r).opt = if r = .motorOpt then v.setWidth 3 else m.opt := by
  cases r <;> simp [Motor.store, apply_ite Motor.opt]

@[simp] theorem Motor.store_supplyV (m : Motor) :
    (m.store v r).supplyV = if r = .supplyV then v else m.supplyV := by
  cases r <;> simp [Motor.store, apply_ite Motor.supplyV]

@[simp] theorem Motor.store_voltLimit (m : Motor) :
    (m.store v r).voltLimit = if r = .voltLimit then v else m.voltLimit := by
  cases r <;> simp [Motor.store, apply_ite Motor.voltLimit]

@[simp] theorem Motor.store_velLimit (m : Motor) :
    (m.store v r).velLimit = if r = .velLimit then v else m.velLimit := by
  cases r <;> simp [Motor.store, apply_ite Motor.velLimit]

@[simp] theorem Motor.store_kv (m : Motor) :
    (m.store v r).kv = if r = .kv then v else m.kv := by
  cases r <;> simp [Motor.store, apply_ite Motor.kv]

@[simp] theorem Motor.store_phaseR (m : Motor) :
    (m.store v r).phaseR = if r = .phaseR then v else m.phaseR := by
  cases r <;> simp [Motor.store, apply_ite Motor.phaseR]

@[simp] theorem Motor.store_phaseL (m : Motor) :
    (m.store v r).phaseL = if r = .phaseL then v else m.phaseL := by
  cases r <;> simp [Motor.store, apply_ite Motor.phaseL]

@[simp] theorem Motor.store_alignAngle (m : Motor) :
    (m.store v r).alignAngle = if r = .alignAngle then v else m.alignAngle := by
  cases r <;> simp [Motor.store, apply_ite Motor.alignAngle]

@[simp] theorem Args.store_arg0 (a : Args) : (a.store v r).arg0 = if r = .arg0 then v else a.arg0 := by
  cases r <;> simp [Args.store]

@[simp] theorem Args.store_arg1 (a : Args) : (a.store v r).arg1 = if r = .arg1 then v else a.arg1 := by
  cases r <;> simp [Args.store]

@[simp] theorem Retune.store_vkp (g : Retune) : (g.store v r).vkp = if r = .rtVkp then v else g.vkp := by
  cases r <;> simp [Retune.store]

@[simp] theorem Retune.store_vki (g : Retune) : (g.store v r).vki = if r = .rtVki then v else g.vki := by
  cases r <;> simp [Retune.store]

@[simp] theorem Retune.store_vkd (g : Retune) : (g.store v r).vkd = if r = .rtVkd then v else g.vkd := by
  cases r <;> simp [Retune.store]

@[simp] theorem Retune.store_akp (g : Retune) : (g.store v r).akp = if r = .rtAkp then v else g.akp := by
  cases r <;> simp [Retune.store]

@[simp] theorem Retune.store_aki (g : Retune) : (g.store v r).aki = if r = .rtAki then v else g.aki := by
  cases r <;> simp [Retune.store]

@[simp] theorem Retune.store_akd (g : Retune) : (g.store v r).akd = if r = .rtAkd then v else g.akd := by
  cases r <;> simp [Retune.store]

@[simp] theorem OpenLoop.store_angle (o : OpenLoop) : (o.store v r).angle = if r = .olAngle then v else o.angle := by
  cases r <;> simp [OpenLoop.store]

@[simp] theorem OpenLoop.store_vel (o : OpenLoop) : (o.store v r).vel = if r = .olVel then v else o.vel := by
  cases r <;> simp [OpenLoop.store]

@[simp] theorem OpenLoop.store_t (o : OpenLoop) : (o.store v r).t = o.t := by
  cases r <;> simp [OpenLoop.store]

end Stores

/-- A word cut to its low `n` bits. -/
theorem setWidth_setWidth_eq_and (v : Word) (n : Nat) (h : n ≤ 32) :
    (v.setWidth n).setWidth 32 = v &&& BitVec.ofNat 32 (2 ^ n - 1) := by
  have hpow : 2 ^ n ≤ 2 ^ 32 := Nat.pow_le_pow_right (by decide) h
  apply BitVec.eq_of_toNat_eq
  have hmod : v.toNat % 2 ^ n < 2 ^ 32 := (Nat.mod_lt _ (Nat.two_pow_pos n)).trans_le hpow
  have hmask : (2 ^ n - 1) % 2 ^ 32 = 2 ^ n - 1 := Nat.mod_eq_of_lt (by have := Nat.two_pow_pos n; omega)
  rw [BitVec.toNat_setWidth, BitVec.toNat_setWidth, Nat.mod_eq_of_lt hmod, BitVec.toNat_and, BitVec.toNat_ofNat, hmask,
    Nat.and_two_pow_sub_one_eq_mod]

/-- A field of a PID block reads as before a store to another. -/
theorem Pid.read_store_of_ne (p : Pid) (v : Word) {f g : PidField} (h : g ≠ f) : (p.store v f).read g = p.read g := by
  cases f <;> cases g <;> first | rfl | exact absurd rfl h

/-- A writable field of a PID block reads as the word stored, OPT cut to its two bits (10_state.md R43). -/
theorem Pid.read_store_same (p : Pid) (v : Word) {f : PidField} (h : f.access = .rw) :
    (p.store v f).read f = if f = .opt then v &&& 3#32 else v := by
  cases f
  case opt => exact setWidth_setWidth_eq_and v 2 (by decide)
  all_goals first | rfl | cases h

/-- A register reads as before a store to another. -/
theorem readReg_storeReg_of_ne {r k : Reg} (h : k ≠ r) (v : Word) (s : State) :
    readReg (storeReg r v s) k = readReg s k := by
  cases k
  case vpid g =>
    cases r
    case vpid f => exact Pid.read_store_of_ne _ _ fun e => h (congrArg Reg.vpid e)
    all_goals rfl
  case apid g =>
    cases r
    case apid f => exact Pid.read_store_of_ne _ _ fun e => h (congrArg Reg.apid e)
    all_goals rfl
  all_goals first | rfl | simp [readReg, h.symm]

/-- An RW register reads as the word stored, cut to its writable bits; POLE_PAIRS does not take 0. -/
theorem readReg_storeReg_same {r : Reg} (hrw : r.access = .rw) (v : Word) (s : State) :
    readReg (storeReg r v s) r = (if r = .polePairs ∧ v = 0#32 then readReg s r
      else if r = .motorOpt then v &&& 7#32
      else if r = .vpid .opt ∨ r = .apid .opt then v &&& 3#32
      else v) := by
  cases r
  case vpid f => simpa [readReg, storeReg] using Pid.read_store_same s.vpid v hrw
  case apid f => simpa [readReg, storeReg] using Pid.read_store_same s.apid v hrw
  case motorOpt => simpa [readReg] using setWidth_setWidth_eq_and v 3 (by decide)
  case polePairs => by_cases hv : v = 0#32 <;> simp [readReg, hv]
  all_goals first | cases hrw; done | simp [readReg]

/-! ### Host writes and the acceptance of a command (10_state.md R21, R30, R33; 43_commands.md R160) -/

/-- A word write to a register's offset is a host write to that register. -/
theorem step_hostWrite {r : Reg} {v : Word} {rest : List Event} {s : State}
    (h : s.env.agenda = .host (.write (BitVec.ofNat 32 r.offset) .word v) :: rest) :
    step s = .next (respond .written (writeReg r v (beginStep rest s))) := by
  obtain ⟨-, halign, hwindow⟩ := regAt_offset r
  have haddr : (BitVec.ofNat 32 r.offset).toNat = r.offset := by
    rw [BitVec.toNat_ofNat, Nat.mod_eq_of_lt (by omega)]
  have hin : ¬ Config.windowBytes ≤ r.offset := Nat.not_le.2 hwindow
  simp [step, runAgenda, h, runEvent, hostAccess, haddr, hin, legalAccess, halign]

theorem busy_beginStep (rest : List Event) (s : State) : busy (beginStep rest s) = busy s := rfl

@[simp] theorem readReg_beginStep (rest : List Event) (s : State) (k : Reg) :
    readReg (beginStep rest s) k = readReg s k := by
  cases k <;> rfl

@[simp] theorem readReg_respond (b : BusResponse) (s : State) (k : Reg) : readReg (respond b s) k = readReg s k := by
  cases k <;> rfl

/-- While BUSY every write to a writable register, CMD included, is dropped (10_state.md R21, R30). -/
theorem writeReg_busy {r : Reg} {s : State} (hr : r.access ≠ .ro) (hb : busy s = true) (v : Word) :
    writeReg r v s = setWdrop s := by
  unfold writeReg offerCommand
  cases h : r.access with
  | ro => exact absurd h hr
  | wo => simp [hb]
  | rw => simp [hb]

theorem writeReg_rw {r : Reg} {s : State} (hr : r.access = .rw) (hb : busy s = false) (v : Word) :
    writeReg r v s = storeReg r v s := by
  simp [writeReg, hr, hb]

theorem writeReg_ro {r : Reg} (hr : r.access = .ro) (v : Word) (s : State) : writeReg r v s = s := by
  simp [writeReg, hr]

theorem offerCommand_dropped {w : Word} {s : State}
    (h : busy s = true ∨ (s.status.fatal = true ∧ w ≠ sresetWord)) : offerCommand w s = setWdrop s := by
  unfold offerCommand
  obtain hb | ⟨hf, hw⟩ := h
  · rw [if_pos hb]
  · simp [hf, hw]

theorem offerCommand_accepted {w : Word} {s : State} (hb : busy s = false)
    (hf : s.status.fatal = true → w = sresetWord) : offerCommand w s = acceptCommand w s := by
  unfold offerCommand
  cases h : s.status.fatal with
  | false => simp [hb]
  | true => simp [hb, hf h]

/-- Settles O11: an RW write while idle is a store, which the other registers do not see. -/
theorem hostWriteChangesOneRegister : Obligations.HostWriteChangesOneRegister := by
  intro r v rest s hrw hb hev
  have hstep := step_hostWrite hev
  rw [writeReg_rw hrw (by rwa [busy_beginStep])] at hstep
  refine ⟨_, hstep, ?_, fun k hk => ?_, rfl, rfl, rfl⟩
  · rw [readReg_respond, readReg_storeReg_same hrw, readReg_beginStep]
  · rw [readReg_respond, readReg_storeReg_of_ne hk, readReg_beginStep]

/-- Settles O12: the access right decides between dropping with WDROP and ignoring. -/
theorem droppedAndIgnoredWrites : Obligations.DroppedAndIgnoredWrites := by
  intro off v s
  constructor
  · intro r hat hr hb
    simp only [writeOffset, hat]
    exact writeReg_busy hr hb v
  · rintro (hat | ⟨r, hat, hr⟩) <;> simp only [writeOffset, hat]
    exact writeReg_ro hr v s

/-- Settles O13: a write to CMD offers its word, which is dropped or accepted. -/
theorem commandWordAcceptance : Obligations.CommandWordAcceptance := by
  intro w rest s hev
  have hstep : step s = .next (respond .written (offerCommand w (beginStep rest s))) := step_hostWrite (r := .cmd) hev
  constructor
  · intro hdrop
    rw [hstep, offerCommand_dropped (s := beginStep rest s) hdrop]
    rfl
  · intro hb hf
    rw [hstep, offerCommand_accepted (s := beginStep rest s) hb hf]
    rfl

/-! ### The decoder answers well-formed commands -/

theorem noImmediate_ok {imm : BitVec 16} {i j : Instr} (h : noImmediate imm j = .ok i) : j = i := by
  unfold noImmediate at h
  split at h <;> cases h
  rfl

/-- What the decoder answers is well-formed: MODE_RATCHET with 0 steps is ILLEGAL (30_encoding.md R85). -/
theorem wf_of_decode {w : Word} {i : Instr} (h : decode w = .ok i) : i.wf = true := by
  simp only [decode, decodeWith, ite_eq_iff, reduceCtorEq, and_false, false_or, or_false, Except.ok.injEq] at h
  obtain ⟨-, ⟨-, hsteps, rfl⟩ | ⟨-, h⟩⟩ := h
  · simpa [Instr.wf, Instr.wfWith] using hsteps
  · obtain ⟨-, h⟩ | ⟨-, ⟨-, h⟩ | ⟨-, ⟨-, -, h⟩ | ⟨-, ⟨-, h⟩ | ⟨-, ⟨-, h⟩ | ⟨-, ⟨-, h⟩ | ⟨-, ⟨-, h⟩ | ⟨-, ⟨-, h⟩ |
      ⟨-, -, h⟩⟩⟩⟩⟩⟩⟩⟩ := h <;> obtain rfl := noImmediate_ok h <;> rfl

/-! ### What the commands that drive can do, said once -/

/-- The state MODE_STEP works on: in Ratchet mode the target is recomputed first (44_tick.md R186). -/
def aimed (s : State) : State := if s.motion.mode = .ratchet then retarget s else s

/-- MODE_STEP is fatal in LimitPos mode, and else ends in the dead-band or hands on a target, having written PID state
alone. -/
theorem modeStep_outcome (dt : B32) (s : State) :
    (s.motion.mode = .limitPos ∧ modeStep dt s = .ended (fatal .unimplMode s)) ∨
    modeStep dt s = .ended (deadbandNoOp (aimed s)) ∨
    ∃ tq v a, modeStep dt s = .target tq { aimed s with vpid := v, apid := a } := by
  obtain ⟨hm, e⟩ | ⟨hm, e⟩ | ⟨hm, e⟩ | ⟨hm, e⟩ | ⟨hm, e⟩ := modeStep_cases dt s <;>
    simp only [e, aimed, hm, if_true, reduceCtorEq, if_false]
  · exact .inr (.inr ⟨_, _, _, rfl⟩)
  · unfold angleStep
    split
    · exact .inr (.inl rfl)
    · exact .inr (.inr ⟨_, _, _, rfl⟩)
  · exact .inr (.inr ⟨_, _, _, rfl⟩)
  · unfold ratchetStep
    dsimp only
    split
    · exact .inr (.inl rfl)
    · exact .inr (.inr ⟨_, _, _, rfl⟩)
  · exact .inl ⟨trivial, rfl⟩

/-- The control part of TICK ends fatally in LimitPos mode, in the dead-band, or in its DRIVE. -/
theorem tickControl_outcome (s : State) :
    (s.motion.mode = .limitPos ∧ tickControl s = fatal .unimplMode s) ∨
    tickControl s = deadbandNoOp (aimed s) ∨
    ∃ q d th v a, tickControl s = (drive q d th (setDeadband false { aimed s with vpid := v, apid := a })).state := by
  unfold tickControl
  obtain ⟨hm, e⟩ | e | ⟨tq, v, a, e⟩ := modeStep_outcome (F32.secs s.sensor.dt) s <;> rw [e]
  · exact .inl ⟨hm, rfl⟩
  · exact .inr (.inl rfl)
  · exact .inr (.inr ⟨_, _, _, v, a, rfl⟩)

/-- OL_TICK is refused before any write, or integrates and drives (46_openloop.md R221). -/
theorem olTick_outcome (s : State) :
    (∃ e l, olTick s = raise e { s with env := s.env.logged l }) ∨
    olTick s = olDrive (olIntegrate s.env.ports.clock (logPort .clock s)) := by
  unfold olTick
  split
  · unfold olClock
    split
    · exact .inl ⟨.clock, [.clock], rfl⟩
    · exact .inr rfl
  · exact .inl ⟨.config, [], by simp [Env.logged]⟩

/-- Phase 1 of ALIGN is refused before any write, or drives its pulse on the record (45_align.md R201). -/
theorem alignPhase1_outcome (s : State) :
    (∃ e l, alignPhase1 s = raise e { s with env := s.env.logged l }) ∨
    ∃ a, AlignAdmits a s ∧ alignPhase1 s = alignPulse (recorded a s) := by
  by_cases hc : cfgOk s = true
  · by_cases ht : s.env.ports.clock < s.sensor.t
    · exact .inl ⟨.clock, [.clock], by simp [alignPhase1, hc, alignClock, ht, logPort, Env.logged]⟩
    · cases hr : readSensor s.env.ports with
      | error e =>
        exact .inl ⟨e, [.clock, .sensor],
          by simp [alignPhase1, hc, alignClock, ht, alignSensor, hr, logPort, Env.logged]⟩
      | ok a =>
        obtain ⟨hok, hin⟩ := (readSensor_ok _ _).1 hr
        have hadm : AlignAdmits a s := ⟨hc, BitVec.not_lt.1 ht, hok, hin⟩
        exact .inr ⟨a, hadm, by rw [align_admitted a s hadm, record_eq_recorded]⟩
  · exact .inl ⟨.config, [], by simp [alignPhase1, hc, Env.logged]⟩

/-- The forcing pulse is a DRIVE, with the dwell entered where the DRIVE completes (45_align.md R203). -/
theorem alignPulse_outcome (s : State) : ∃ q d th,
    (alignPulse s = enterDwell s.env.ports.clock (rawElectricalAngle s.sensor.angle s) (drive q d th s).state ∧
      (drive q d th s).state.status.err = .ok) ∨
    alignPulse s = (drive q d th s).state := by
  refine ⟨F32.mul s.motor.supplyV Config.half, Config.zero, s.motor.alignAngle, ?_⟩
  unfold alignPulse
  obtain ⟨e, -, -⟩ | ⟨e, -⟩ | ⟨ch, e, -, -⟩ :=
    drive_cases (F32.mul s.motor.supplyV Config.half) Config.zero s.motor.alignAngle s <;> rw [e]
  · exact .inl ⟨rfl, rfl⟩
  · exact .inr rfl
  · exact .inr rfl

/-- The state in which phase 2 of ALIGN looks at the sensor's answer: the dwell left, both ports asked. -/
def phase2Start (s : State) : State := logPort .sensor (leaveDwell (logPort .clock s))

/-- Phase 2 of ALIGN aborts on its sensor, fails fatally on the record, or succeeds on it (45_align.md R205). -/
theorem alignPhase2_outcome (s : State) :
    (∃ e, alignPhase2 s = raise e (phase2Start s)) ∨
    ∃ a, inRange a = true ∧
      (alignPhase2 s = fatal .alignFail (record a s.env.ports.clock (phase2Start s)) ∨
        ∃ off, alignPhase2 s = alignSucceed off (record a s.env.ports.clock (phase2Start s))) := by
  cases hr : readSensor s.env.ports with
  | error e => exact .inl ⟨e, by simp [alignPhase2, hr, phase2Start]⟩
  | ok a =>
    refine .inr ⟨a, ((readSensor_ok _ _).1 hr).2, ?_⟩
    have hmeasure : alignPhase2 s = alignMeasure (record a s.env.ports.clock (phase2Start s)) := by
      simp [alignPhase2, hr, phase2Start]
    rw [hmeasure, alignMeasure]
    split
    · exact .inl rfl
    · exact .inr ⟨_, rfl⟩

/-- A block step is phase 2 of an ALIGN whose dwell has passed, the step of the pending word, or none (log 14). -/
theorem blockStep_outcome (s : State) :
    (s.align.phase = .dwell ∧ dwellPassed s = true ∧ blockStep s = .next (alignPhase2 s)) ∨
    (∃ w, s.align.phase = .idle ∧ s.pending = some w ∧ blockStep s = runWord w (takePending s)) ∨
    blockStep s = .next s := by
  cases hp : s.align.phase with
  | dwell =>
    rw [blockStep_dwell s hp]
    cases hd : dwellPassed s with
    | true => exact .inl ⟨rfl, rfl, rfl⟩
    | false => exact .inr (.inr rfl)
  | idle =>
    cases hw : s.pending with
    | none => exact .inr (.inr (blockStep_idle s hp hw))
    | some w => exact .inr (.inl ⟨w, rfl, rfl, blockStep_pending s w hp hw⟩)

/-! ### The safe states (10_state.md, 60_exceptions.md R232) -/

/-- The part of the state that SafeState speaks of. -/
def safetyView (s : State) :=
  (s.motor.polePairs, s.sensor, s.motion, s.calOffset, s.duty, s.pending, s.align,
    s.status.aligned, s.status.fatal, s.status.err, s.status.errCh)

/-- The raw electrical angle reads nothing of the state but POLE_PAIRS (40_sensor.md R106). -/
theorem rawElectricalAngle_congr {s t : State} (h : t.motor.polePairs = s.motor.polePairs) (a : B32) :
    rawElectricalAngle a t = rawElectricalAngle a s := by
  simp only [rawElectricalAngle, pp, h]

theorem SafeState.of_view {s t : State} (hs : SafeState s) (h : safetyView t = safetyView s) : SafeState t := by
  simp only [safetyView, Prod.mk.injEq] at h
  obtain ⟨hpp, hsensor, hmotion, hcal, hduty, hpend, halign, haligned, hfatal, herr, hch⟩ := h
  have hraw : ∀ a, rawElectricalAngle a t = rawElectricalAngle a s := rawElectricalAngle_congr hpp
  constructor <;> simp only [hpp, hsensor, hmotion, hcal, hduty, hpend, halign, haligned, hfatal, herr, hch, hraw]
  exacts [hs.polePairs_legal, hs.continuous, hs.angle_bounded, hs.steps_bounded, hs.geometry, hs.ratchet_steps,
    hs.limitPos_target, hs.offset_absent, hs.errCh_zero, hs.fatal_locked, hs.dwell_held, hs.latch_a, hs.latch_b,
    hs.latch_c]

/-- A safe state in which a command runs: not fatal, its word taken out of PENDING, no ALIGN in its dwell. -/
structure Running (s : State) : Prop extends SafeState s where
  not_fatal : s.status.fatal = false
  nothing_pending : s.pending = none
  not_dwelling : s.align.phase = .idle

/-! A lemma named after an operation says that a command goes on running after it; `…_safe` says that it may end the
command there. -/

namespace Running
variable {s t : State}

theorem of_view (hs : Running s) (h : safetyView t = safetyView s) : Running t := by
  have hsafe := hs.toSafeState.of_view h
  simp only [safetyView, Prod.mk.injEq] at h
  obtain ⟨-, -, -, -, -, hpend, halign, -, hfatal, -, -⟩ := h
  exact ⟨hsafe, by rw [hfatal, hs.not_fatal], by rw [hpend, hs.nothing_pending], by rw [halign, hs.not_dwelling]⟩

theorem setResult (hs : Running s) (e : Err) (ch : Phase) (hch : e ≠ .pwm → ch = .a) :
    Running (setResult e ch s) :=
  { hs with
    errCh_zero := hch
    fatal_locked := fun hf => absurd hf (by simp [hs.not_fatal])
    dwell_held := fun hd => absurd hd (by simp [hs.not_dwelling]) }

theorem complete (hs : Running s) : Running (complete s) := hs.setResult _ _ fun _ => rfl

theorem raise (hs : Running s) (e : Err) : Running (raise e s) := hs.setResult _ _ fun _ => rfl

theorem raisePwm (hs : Running s) (ch : Phase) : Running (raisePwm ch s) := hs.setResult _ _ fun h => absurd rfl h

theorem logPort (hs : Running s) (p : PortAccess) : Running (logPort p s) := hs.of_view rfl

theorem setDrive (hs : Running s) (q d th : B32) : Running (setDrive q d th s) := hs.of_view rfl

theorem loseOutput (hs : Running s) (ch : Phase) : Running (loseOutput ch s) := hs.of_view rfl

theorem setDeadband (hs : Running s) (v : Bool) : Running (setDeadband v s) := hs.of_view rfl

theorem withPids (hs : Running s) (v a : Pid) : Running { s with vpid := v, apid := a } := hs.of_view rfl

theorem olIntegrate (hs : Running s) (c : U64) : Running (olIntegrate c s) := hs.of_view (by simp [safetyView])

theorem copyGains (hs : Running s) : Running (copyGains s) := hs.of_view rfl

/-- The record takes an angle in range and re-bases S_CONT on it (40_sensor.md R103). -/
theorem record (hs : Running s) {a : B32} (ha : inRange a = true) (c : U64) : Running (record a c s) :=
  { hs with
    continuous := rfl
    angle_bounded := ha
    dwell_held := fun hd => absurd hd (by simp [hs.not_dwelling]) }

/-- A port accepts only a legal percentage (60_exceptions.md R243). -/
theorem acceptDuty (hs : Running s) (ch : Phase) {p : B32} (hp : dutyLegal p) : Running (acceptDuty ch p s) := by
  cases ch with
  | a => exact { hs with latch_a := hp }
  | b => exact { hs with latch_b := hp }
  | c => exact { hs with latch_c := hp }

/-- Every command that moves MODE, TARGET or a payload owes the four clauses about them. -/
theorem withMotion (hs : Running s) (m : Motion) (hsteps : m.rSteps.toNat < 2 ^ 16)
    (hgeo : m.rSteps ≠ 0#32 → m.rRps = F32.div Config.twoPi32 (F32.ofNat m.rSteps.toNat))
    (hratchet : m.mode = .ratchet → m.rSteps ≠ 0#32)
    (hlimit : m.mode = .limitPos → m.target = Config.zero) : Running { s with motion := m } :=
  { hs with
    steps_bounded := hsteps
    geometry := hgeo
    ratchet_steps := hratchet
    limitPos_target := hlimit }

end Running

theorem dutyLegal_of_not_anyNaN (q d th : B32) (s : State) (h : (dutiesFor q d th s).anyNaN = false) (ch : Phase) :
    dutyLegal ((dutiesFor q d th s).get ch) := by
  simp only [Duty.anyNaN, Bool.or_eq_false_iff] at h
  obtain ⟨⟨ha, hb⟩, hc⟩ := h
  cases ch with
  | a => exact voltToPercent_legal _ _ ha
  | b => exact voltToPercent_legal _ _ hb
  | c => exact voltToPercent_legal _ _ hc

theorem Running.drive {s : State} (hs : Running s) (q d th : B32) : Running (drive q d th s).state :=
  drive_state Running q d th s (hs.setDrive q d th)
    (fun _ _ ht => ht.raise _)
    (fun _ ht => ht.complete)
    (fun hn ch _ ht => (ht.logPort _).acceptDuty ch (dutyLegal_of_not_anyNaN q d th s hn ch))
    (fun _ ch _ ht => ((ht.logPort _).loseOutput ch).raisePwm ch)

/-- The state after reset is safe (70_reset_and_hazards.md R270). -/
theorem reset_safe : SafeState State.reset where
  polePairs_legal := by decide
  continuous := by decide
  angle_bounded := by decide
  steps_bounded := by decide
  geometry := fun h => absurd rfl h
  ratchet_steps := fun h => absurd h (by decide)
  limitPos_target := fun h => absurd h (by decide)
  offset_absent := fun _ => rfl
  errCh_zero := fun _ => rfl
  fatal_locked := fun h => absurd h (by decide)
  dwell_held := fun h => absurd h (by decide)
  latch_a := ⟨by decide, by decide⟩
  latch_b := ⟨by decide, by decide⟩
  latch_c := ⟨by decide, by decide⟩

theorem resetBlock_safe (s : State) : SafeState (resetBlock s) := reset_safe.of_view rfl

/-! ### Every command keeps a safe state safe -/

namespace Running
variable {s : State}

theorem fatal_safe (hs : Running s) {e : Err} (he : e = .alignFail ∨ e = .unimplMode) : SafeState (fatal e s) :=
  { hs with
    errCh_zero := fun _ => rfl
    fatal_locked := fun _ => ⟨he, hs.not_dwelling, .inl hs.nothing_pending⟩
    dwell_held := fun hd => absurd hd (by simp [hs.not_dwelling]) }

theorem enterDwell_safe (hs : Running s) {t0 : U64} {eb : B32} (herr : s.status.err = .ok)
    (ht : t0 = s.sensor.t) (heb : eb = rawElectricalAngle s.sensor.angle s) : SafeState (enterDwell t0 eb s) :=
  { hs with
    fatal_locked := fun hf => absurd hf (by simp [hs.not_fatal])
    dwell_held := fun _ => ⟨hs.nothing_pending, herr, ht, heb⟩ }

theorem alignSucceed (hs : Running s) (off : B32) : Running (alignSucceed off s) :=
  { hs with
    continuous := by simp
    offset_absent := fun h => absurd h (by simp)
    errCh_zero := fun _ => rfl
    fatal_locked := fun hf => absurd hf (by simp [hs.not_fatal])
    dwell_held := fun hd => absurd hd (by simp [hs.not_dwelling]) }

/-- A command refused by its checks has asked some ports and writes its code alone. -/
theorem refused (hs : Running s) (e : Err) (l : List PortAccess) :
    Running (Machine.raise e { s with env := s.env.logged l }) :=
  (hs.of_view (t := { s with env := s.env.logged l }) rfl).raise e

theorem recorded (hs : Running s) {a : B32} (ha : inRange a = true) : Running (recorded a s) := by
  rw [← record_eq_recorded]
  exact ((hs.logPort _).logPort _).record ha _

theorem aimed (hs : Running s) : Running (aimed s) := by
  unfold Machine.aimed
  split
  case isTrue hm =>
    exact hs.withMotion _ hs.steps_bounded hs.geometry hs.ratchet_steps (fun h => by simp [hm] at h)
  case isFalse => exact hs

theorem tickControl_safe (hs : Running s) : SafeState (tickControl s) := by
  obtain ⟨-, e⟩ | e | ⟨q, d, th, v, a, e⟩ := tickControl_outcome s <;> rw [e]
  · exact hs.fatal_safe (.inr rfl)
  · exact (hs.aimed.setDeadband true).complete.toSafeState
  · exact (((hs.aimed.withPids v a).setDeadband false).drive q d th).toSafeState

theorem tick_safe (hs : Running s) : SafeState (tick s) := by
  obtain ⟨e, l, h, -⟩ | ⟨a, ⟨-, -, -, hin⟩, h⟩ := tick_cases s <;> rw [h]
  · exact (hs.refused e l).toSafeState
  · rw [record_eq_recorded]
    exact (hs.recorded hin).tickControl_safe

theorem olTick_safe (hs : Running s) : SafeState (olTick s) := by
  obtain ⟨e, l, h⟩ | h := olTick_outcome s <;> rw [h]
  · exact (hs.refused e l).toSafeState
  · exact (((hs.logPort .clock).olIntegrate _).drive _ _ _).toSafeState

/-- The dwell holds the instant and the angle of the record its pulse follows (45_align.md R203). -/
theorem alignPulse_safe (hs : Running s) (ht : s.env.ports.clock = s.sensor.t) : SafeState (alignPulse s) := by
  obtain ⟨q, d, th, ⟨e, herr⟩ | e⟩ := alignPulse_outcome s <;> rw [e]
  · obtain ⟨st, en, du, hkeep, -⟩ := drive_keeps q d th s
    have hdrive := hs.drive q d th
    rw [hkeep] at hdrive herr ⊢
    exact hdrive.enterDwell_safe herr ht rfl
  · exact (hs.drive q d th).toSafeState

theorem alignPhase1_safe (hs : Running s) : SafeState (alignPhase1 s) := by
  obtain ⟨e, l, h⟩ | ⟨a, ⟨-, -, -, hin⟩, h⟩ := alignPhase1_outcome s <;> rw [h]
  · exact (hs.refused e l).toSafeState
  · exact (hs.recorded hin).alignPulse_safe rfl

/-- A mode with one target; the geometry stands as it was (43_commands.md R164 to R166). -/
theorem setModeTarget (hs : Running s) {m : Mode} (v : B32) (hr : m ≠ .ratchet) (hl : m = .limitPos → v = Config.zero) :
    Running (setModeTarget m v s) :=
  hs.withMotion _ hs.steps_bounded hs.geometry (fun h => absurd h hr) hl

theorem modeRatchet (hs : Running s) {n : BitVec 16} (hn : n ≠ 0#16) :
    Running (Machine.setModeTarget .ratchet Config.zero (setGeometry n s)) := by
  have hnat : (n.setWidth 32).toNat = n.toNat := by simp; omega
  refine hs.withMotion _ ?_ ?_ ?_ ?_
  · simp only [setGeometry, hnat]
    exact n.isLt
  · simp [setGeometry, hnat]
  · intro _ h
    have hzero : (n.setWidth 32).toNat = 0 := congrArg BitVec.toNat h
    exact hn (BitVec.eq_of_toNat_eq (hnat ▸ hzero))
  · exact fun h => by simp at h

theorem exec_safe (hs : Running s) {i : Instr} (hi : i.wf = true) {t : State} (h : exec i s = .next t) :
    SafeState t := by
  cases i <;> obtain rfl := Host.Outcome.next.inj h
  case nop => exact hs.complete.toSafeState
  case tick => exact hs.tick_safe
  case olTick => exact hs.olTick_safe
  case align => exact hs.alignPhase1_safe
  case modeVelocity => exact (hs.setModeTarget s.args.arg0 (by decide) (fun h => by cases h)).complete.toSafeState
  case modeAngle => exact (hs.setModeTarget s.args.arg0 (by decide) (fun h => by cases h)).complete.toSafeState
  case modeTorque => exact (hs.setModeTarget s.args.arg0 (by decide) (fun h => by cases h)).complete.toSafeState
  case modeRatchet n =>
    have hn : n ≠ 0#16 := by simpa [Instr.wf, Instr.wfWith] using hi
    exact (hs.modeRatchet hn).copyGains.complete.toSafeState
  case modeLimitPos =>
    have hlimits : Running (setLimits s.args.arg0 s.args.arg1 s) :=
      hs.withMotion _ hs.steps_bounded hs.geometry hs.ratchet_steps hs.limitPos_target
    exact (hlimits.setModeTarget _ (by decide) (fun _ => rfl)).complete.toSafeState
  case sreset => exact resetBlock_safe s

theorem runWord_safe (hs : Running s) {w : Word} {t : State} (h : runWord w s = .next t) : SafeState t := by
  unfold runWord at h
  split at h
  next => exact Host.Outcome.next.inj h ▸ (hs.raise _).toSafeState
  next i hi => exact hs.exec_safe (wf_of_decode hi) h

end Running

/-! ### Every step keeps a safe state safe -/

/-- SRESET, the one word pending in the fatal state, resets (43_commands.md R163). -/
theorem runWord_sresetWord (s : State) : runWord sresetWord s = .next (resetBlock s) := rfl

/-! A lemma named after an operation says that it keeps SafeState. -/

namespace SafeState
variable {s t : State}

theorem storeReg (hs : SafeState s) (hb : busy s = false) (r : Reg) (v : Word) : SafeState (storeReg r v s) := by
  have hpp : (s.motor.store v r).polePairs ≠ 0#32 := by
    rw [Motor.store_polePairs]
    split
    case isTrue hv => exact hv.2
    case isFalse => exact hs.polePairs_legal
  exact { hs with
    polePairs_legal := hpp
    dwell_held := fun hd => absurd hd (not_dwelling_of_not_busy hb) }

theorem acceptCommand (hs : SafeState s) (hb : busy s = false) {w : Word}
    (hw : s.status.fatal = true → w = sresetWord) : SafeState (acceptCommand w s) :=
  { hs with
    fatal_locked := fun hf =>
      have ⟨hcause, hidle, _⟩ := hs.fatal_locked hf
      ⟨hcause, hidle, .inr (congrArg some (hw hf))⟩
    dwell_held := fun hd => absurd hd (not_dwelling_of_not_busy (s := s) hb) }

theorem writeReg (hs : SafeState s) (r : Reg) (v : Word) : SafeState (writeReg r v s) := by
  obtain e | e | ⟨hb, -, e⟩ | ⟨hb, hf, e⟩ := writeReg_cases r v s <;> rw [e]
  · exact hs
  · exact hs.of_view rfl
  · exact hs.storeReg hb r v
  · exact hs.acceptCommand hb hf

theorem writeOffset (hs : SafeState s) (off : Nat) (v : Word) : SafeState (writeOffset off v s) := by
  obtain e | ⟨r, -, e⟩ := writeOffset_cases off v s <;> rw [e]
  · exact hs
  · exact hs.writeReg r v

theorem hostAccess (hs : SafeState s) {a : HostAccess} (h : hostAccess a s = .next t) : SafeState t := by
  obtain ⟨addr, e⟩ | ⟨b, u, e, hu⟩ := hostAccess_cases a s <;> rw [e] at h
  · cases h
  · obtain rfl := Host.Outcome.next.inj h
    obtain rfl | ⟨off, v, rfl⟩ := hu
    · exact hs.of_view rfl
    · exact (hs.writeOffset off v).of_view rfl

/-- In a dwell the block is not fatal and has nothing pending, so that leaving the dwell it runs phase 2. -/
theorem phase2Start_running (hs : SafeState s) (hd : s.align.phase = .dwell) : Running (phase2Start s) := by
  have hf : s.status.fatal = false := by
    by_contra hf
    obtain ⟨-, hidle, -⟩ := hs.fatal_locked (by simpa using hf)
    rw [hd] at hidle
    cases hidle
  exact { hs with
    fatal_locked := fun h => absurd h (by simp [phase2Start, hf])
    dwell_held := fun h => absurd h (by simp [phase2Start])
    not_fatal := hf
    nothing_pending := (hs.dwell_held hd).1
    not_dwelling := rfl }

theorem alignPhase2 (hs : SafeState s) (hd : s.align.phase = .dwell) : SafeState (alignPhase2 s) := by
  have hrun := hs.phase2Start_running hd
  obtain ⟨e, h⟩ | ⟨a, ha, h | ⟨off, h⟩⟩ := alignPhase2_outcome s <;> rw [h]
  · exact (hrun.raise e).toSafeState
  · exact (hrun.record ha _).fatal_safe (.inl rfl)
  · exact ((hrun.record ha _).alignSucceed off).toSafeState

theorem takePending_running (hs : SafeState s) (hi : s.align.phase = .idle) (hf : s.status.fatal = false) :
    Running (takePending s) :=
  { hs with
    fatal_locked := fun h => absurd h (by simp [hf])
    dwell_held := fun h => absurd h (by simp [hi])
    not_fatal := hf
    nothing_pending := rfl
    not_dwelling := hi }

theorem blockStep (hs : SafeState s) (h : blockStep s = .next t) : SafeState t := by
  obtain ⟨hd, -, e⟩ | ⟨w, hi, hw, e⟩ | e := blockStep_outcome s <;> rw [e] at h
  · exact Host.Outcome.next.inj h ▸ hs.alignPhase2 hd
  · cases hf : s.status.fatal with
    | false => exact (hs.takePending_running hi hf).runWord_safe h
    | true =>
      obtain ⟨-, -, hnone | hsreset⟩ := hs.fatal_locked hf
      · rw [hw] at hnone
        cases hnone
      · obtain rfl : w = sresetWord := by simpa [hw] using hsreset
        exact Host.Outcome.next.inj ((runWord_sresetWord _).symm.trans h) ▸ resetBlock_safe _
  · exact Host.Outcome.next.inj h ▸ hs

end SafeState

/-- Settles O56: each of the four kinds of step keeps SafeState. -/
theorem everyStepKeepsTheStateSafe : Obligations.EveryStepKeepsTheStateSafe := by
  intro s t hs h
  obtain ⟨-, e⟩ | ⟨a, rest, -, e⟩ | ⟨p, rest, -, e⟩ | ⟨rest, -, e⟩ := step_cases s <;> rw [e] at h
  · exact Host.Outcome.next.inj h ▸ hs.of_view rfl
  · exact (hs.of_view (t := beginStep rest s) rfl).hostAccess h
  · exact (hs.of_view (t := setPorts p (beginStep rest s)) rfl).blockStep h
  · exact Host.Outcome.next.inj h ▸ resetBlock_safe _

/-! ### What sets FATAL and ALIGNED (10_state.md R26, R27) -/

/-- Neither FATAL nor ALIGNED is set in `t` unless it is in `s`. -/
def SetsNoFlag (s t : State) : Prop :=
  (t.status.fatal = true → s.status.fatal = true) ∧ (t.status.aligned = true → s.status.aligned = true)

/-- A step from `s` to `t` that set FATAL in a LimitPos TICK (44_tick.md R188). -/
def TickSetsFatal (s t : State) : Prop :=
  s.motion.mode = .limitPos ∧ t.status.err = .unimplMode ∧ t.status.aligned = s.status.aligned

theorem SetsNoFlag.of_eq {s t : State} (hf : t.status.fatal = s.status.fatal)
    (ha : t.status.aligned = s.status.aligned) : SetsNoFlag s t :=
  ⟨fun h => hf ▸ h, fun h => ha ▸ h⟩

theorem resetBlock_setsNoFlag (s t : State) : SetsNoFlag s (resetBlock t) :=
  ⟨fun h => by simp [State.reset, Status.reset] at h, fun h => by simp [State.reset, Status.reset] at h⟩

@[simp] theorem aimed_status (s : State) : (aimed s).status = s.status := by
  unfold aimed
  split <;> simp

/-- DRIVE sets no flag, from any state with the flags of `s`. -/
theorem drive_setsNoFlag {s t : State} (q d th : B32) (hf : t.status.fatal = s.status.fatal)
    (ha : t.status.aligned = s.status.aligned) : SetsNoFlag s (drive q d th t).state := by
  obtain ⟨st, en, du, e, haligned, hfatal, -⟩ := drive_keeps q d th t
  rw [e]
  exact .of_eq (hfatal.trans hf) (haligned.trans ha)

theorem tick_flags (s : State) : SetsNoFlag s (tick s) ∨ TickSetsFatal s (tick s) := by
  obtain ⟨e, l, h, -⟩ | ⟨a, -, h⟩ := tick_cases s <;> rw [h]
  · exact .inl (.of_eq rfl rfl)
  · rw [record_eq_recorded]
    obtain ⟨hm, e⟩ | e | ⟨q, d, th, v, p, e⟩ := tickControl_outcome (recorded a s) <;> rw [e]
    · exact .inr ⟨hm, rfl, rfl⟩
    · exact .inl (.of_eq (by simp [recorded]) (by simp [recorded]))
    · exact .inl (drive_setsNoFlag q d th (by simp [recorded]) (by simp [recorded]))

theorem olTick_setsNoFlag (s : State) : SetsNoFlag s (olTick s) := by
  obtain ⟨e, l, h⟩ | h := olTick_outcome s <;> rw [h]
  · exact .of_eq rfl rfl
  · exact drive_setsNoFlag _ _ _ (by simp) (by simp)

theorem alignPhase1_setsNoFlag (s : State) : SetsNoFlag s (alignPhase1 s) := by
  obtain ⟨e, l, h⟩ | ⟨a, -, h⟩ := alignPhase1_outcome s <;> rw [h]
  · exact .of_eq rfl rfl
  · obtain ⟨q, d, th, ⟨e, -⟩ | e⟩ := alignPulse_outcome (recorded a s) <;> rw [e]
    all_goals exact drive_setsNoFlag (s := s) (t := recorded a s) q d th rfl rfl

/-- No command but TICK sets a flag in its own block step. -/
theorem exec_flags {i : Instr} {s t : State} (h : exec i s = .next t) :
    SetsNoFlag s t ∨ (i = .tick ∧ TickSetsFatal s t) := by
  cases i <;> obtain rfl := Host.Outcome.next.inj h
  case tick => exact (tick_flags s).imp_right fun hl => ⟨rfl, hl⟩
  case olTick => exact .inl (olTick_setsNoFlag s)
  case align => exact .inl (alignPhase1_setsNoFlag s)
  case sreset => exact .inl (resetBlock_setsNoFlag s s)
  all_goals exact .inl (.of_eq (by simp) (by simp))

theorem runWord_flags {w : Word} {s t : State} (h : runWord w s = .next t) :
    SetsNoFlag s t ∨ (decode w = .ok .tick ∧ TickSetsFatal s t) := by
  unfold runWord at h
  split at h
  next => exact Host.Outcome.next.inj h ▸ .inl (.of_eq rfl rfl)
  next i hi => exact (exec_flags h).imp_right fun ⟨htick, hl⟩ => ⟨htick ▸ hi, hl⟩

/-- Phase 2 of ALIGN sets FATAL with ALIGN_FAIL or ALIGNED with OK, never both (45_align.md R206, R207). -/
theorem alignPhase2_flags (s : State) :
    SetsNoFlag s (alignPhase2 s) ∨
    ((alignPhase2 s).status.err = .alignFail ∧ (alignPhase2 s).status.aligned = s.status.aligned) ∨
    ((alignPhase2 s).status.err = .ok ∧ (alignPhase2 s).status.fatal = s.status.fatal) := by
  obtain ⟨e, h⟩ | ⟨a, -, h | ⟨off, h⟩⟩ := alignPhase2_outcome s <;> rw [h]
  · exact .inl (.of_eq rfl rfl)
  · exact .inr (.inl ⟨rfl, rfl⟩)
  · exact .inr (.inr ⟨by simp, by simp [phase2Start]⟩)

theorem writeReg_setsNoFlag (r : Reg) (v : Word) (s : State) : SetsNoFlag s (writeReg r v s) := by
  obtain e | e | ⟨-, -, e⟩ | ⟨-, -, e⟩ := writeReg_cases r v s <;> rw [e] <;> exact .of_eq rfl rfl

theorem hostAccess_setsNoFlag {a : HostAccess} {s t : State} (h : hostAccess a s = .next t) : SetsNoFlag s t := by
  obtain ⟨addr, e⟩ | ⟨b, u, e, hu⟩ := hostAccess_cases a s <;> rw [e] at h
  · cases h
  · obtain rfl := Host.Outcome.next.inj h
    obtain rfl | ⟨off, v, rfl⟩ := hu
    · exact .of_eq rfl rfl
    · obtain e | ⟨r, -, e⟩ := writeOffset_cases off v s <;> rw [e]
      · exact .of_eq rfl rfl
      · exact writeReg_setsNoFlag r v s

/-- A step that sets no flag meets every claim about the steps that set one. -/
theorem SetsNoFlag.flags {s t : State} (h : SetsNoFlag s t) {P Q : Prop} :
    (s.status.fatal = false → t.status.fatal = true → P) ∧
      (s.status.aligned = false → t.status.aligned = true → Q) :=
  ⟨fun hs ht => by simp [h.1 ht] at hs, fun hs ht => by simp [h.2 ht] at hs⟩

/-- Settles O59: of the four kinds of step only a block step sets a flag; in a dwell it is phase 2, and else the step of
a pending word, which sets one only as a LimitPos TICK. -/
theorem onlyTickAndAlignmentSetTheFlags : Obligations.OnlyTickAndAlignmentSetTheFlags := by
  intro s t h phase2
  obtain ⟨-, e⟩ | ⟨a, rest, -, e⟩ | ⟨p, rest, hev, e⟩ | ⟨rest, -, e⟩ := step_cases s <;> rw [e] at h
  · obtain rfl := Host.Outcome.next.inj h
    exact SetsNoFlag.flags (.of_eq rfl rfl)
  · have hno : SetsNoFlag (beginStep rest s) t := hostAccess_setsNoFlag h
    exact hno.flags
  · obtain ⟨hd, hpassed, e⟩ | ⟨w, hi, hw, e⟩ | e := blockStep_outcome (setPorts p (beginStep rest s)) <;> rw [e] at h
    · obtain rfl := Host.Outcome.next.inj h
      have hphase2 : phase2 := ⟨p, rest, hev, hd, of_decide_eq_true hpassed⟩
      obtain hno | ⟨herr, haligned⟩ | ⟨herr, hfatal⟩ := alignPhase2_flags (setPorts p (beginStep rest s))
      · exact hno.flags
      · exact ⟨fun _ _ => .inr ⟨herr, hphase2⟩, fun hs ht => by simp [haligned, hs] at ht⟩
      · exact ⟨fun hs ht => by simp [hfatal, hs] at ht, fun _ _ => ⟨herr, hphase2⟩⟩
    · obtain hno | ⟨htick, hm, herr, haligned⟩ := runWord_flags h
      · exact hno.flags
      · exact ⟨fun _ _ => .inl ⟨herr, hm, p, rest, w, hev, hi, hw, htick⟩, fun hs ht => by simp [haligned, hs] at ht⟩
    · obtain rfl := Host.Outcome.next.inj h
      exact SetsNoFlag.flags (.of_eq rfl rfl)
  · obtain rfl := Host.Outcome.next.inj h
    exact (resetBlock_setsNoFlag s _).flags

end Sys2Proof.Machine

/-! SUPPORT. Proofs of the statements about the host bus and the ports (20_memory.md): word reads, bus errors, and the
order in which a block step accesses its ports. -/

namespace Sys2Proof.Machine

/-! ### Host reads and bus errors (20_memory.md R60 to R64) -/

/-- An event of the host is its access, the event taken. -/
theorem step_host {a : HostAccess} {rest : List Event} {s : State} (h : s.env.agenda = .host a :: rest) :
    step s = hostAccess a (beginStep rest s) := by
  simp [step, runAgenda, h, runEvent]

/-- A host access that only answers leaves the state the statements name. -/
theorem respond_beginStep (b : BusResponse) (rest : List Event) (s : State) :
    respond b (beginStep rest s) = afterAccess b rest s := rfl

/-- What the window reads does not depend on the agenda, the port log or the bus response. -/
theorem readOffset_afterAccess (b : BusResponse) (rest : List Event) (s : State) (off : Nat) :
    readOffset (afterAccess b rest s) off = readOffset s off := by
  unfold readOffset
  cases regAt off with
  | none => rfl
  | some r => exact (readReg_respond b (beginStep rest s) r).trans (readReg_beginStep rest s r)

theorem legalAccess_eq_false {addr : Word} {width : Width} :
    legalAccess addr width = false ↔ addr.toNat % 4 ≠ 0 ∨ width ≠ .word := by
  rw [legalAccess, Bool.and_eq_false_iff, decide_eq_false_iff_not, decide_eq_false_iff_not, or_comm]

theorem hostAccess_read_word {addr : Word} (hin : addr.toNat < 0x200) (halign : addr.toNat % 4 = 0) (s : State) :
    hostAccess (.read addr .word) s = .next (respond (.data (readOffset s addr.toNat)) s) := by
  have hwindow : ¬ Config.windowBytes ≤ addr.toNat := Nat.not_le.2 hin
  simp [hostAccess, hwindow, legalAccess, halign]

section Access
variable {a : HostAccess} {addr : Word} {width : Width} {v : Word}

/-- A misaligned or narrow access inside the window, of either direction, only answers a bus error (log 6). -/
theorem hostAccess_busError (ha : a = .read addr width ∨ a = .write addr width v) (hin : addr.toNat < 0x200)
    (hbad : addr.toNat % 4 ≠ 0 ∨ width ≠ .word) (s : State) : hostAccess a s = .next (respond .busError s) := by
  have hwindow : ¬ Config.windowBytes ≤ addr.toNat := Nat.not_le.2 hin
  obtain rfl | rfl := ha <;> simp [hostAccess, hwindow, legalAccess_eq_false.2 hbad]

/-- An access outside the window, of either direction, stops the run (log 7). -/
theorem hostAccess_outsideWindow (ha : a = .read addr width ∨ a = .write addr width v) (hout : 0x200 ≤ addr.toNat)
    (s : State) : hostAccess a s = .fault (.outsideWindow addr) := by
  have hwindow : Config.windowBytes ≤ addr.toNat := hout
  obtain rfl | rfl := ha <;> simp [hostAccess, hwindow]

end Access

/-- Settles O9: the read answers out of the register file, which sees nothing of what the access leaves behind. -/
theorem readsHaveNoSideEffect : Obligations.ReadsHaveNoSideEffect := by
  intro addr rest s hin halign hev
  have hword : readOffset (beginStep rest s) addr.toNat = readOffset s addr.toNat :=
    readOffset_afterAccess s.env.response rest s addr.toNat
  refine ⟨?_, readOffset_afterAccess _ rest s addr.toNat⟩
  rw [step_host hev, hostAccess_read_word hin halign, hword, respond_beginStep]

/-- Settles O10: the window is checked first, then the width and the alignment, in a read as in a write. -/
theorem busErrorsHaveNoEffect : Obligations.BusErrorsHaveNoEffect := by
  intro addr width v rest s hev
  obtain ⟨a, ha, hev⟩ : ∃ a, (a = .read addr width ∨ a = .write addr width v) ∧ s.env.agenda = .host a :: rest :=
    hev.elim (fun h => ⟨_, .inl rfl, h⟩) (fun h => ⟨_, .inr rfl, h⟩)
  rw [step_host hev]
  exact ⟨fun hin hbad => hostAccess_busError ha hin hbad _, fun hout => hostAccess_outsideWindow ha hout _⟩

/-! ### The order of the port accesses (20_memory.md R74, 42_transform_pwm.md R149) -/

/-- The port accesses of a block step with these port answers: the clock or none, after it the sensor or none, then no
duty write or those of a commit up to the first refused one. -/
def PortOrder (answers : Ports) (l : List PortAccess) : Prop :=
  ∃ (clock sensor : Bool) (p : Duty) (k : Nat),
    l = (if clock then [PortAccess.clock] else []) ++ (if sensor then [PortAccess.sensor] else []) ++
      (commitAccesses p).take k ∧
    (sensor = true → clock = true) ∧ (k ≠ 0 → clock = true) ∧
    (k = 0 ∨ k = (if answers.pwmA = false then 1 else if answers.pwmB = false then 2 else 3))

/-- Port C is the last one written, whatever it answers. -/
theorem dutyWrites_eq (answers : Ports) :
    dutyWrites answers = if answers.pwmA = false then 1 else if answers.pwmB = false then 2 else 3 := by
  unfold dutyWrites Ports.firstRefused
  cases answers.pwmA <;> cases answers.pwmB <;> cases answers.pwmC <;> rfl

/-- A command that ends before its DRIVE has asked no port, the clock, or the clock and the sensor. -/
theorem PortOrder.of_asked {answers : Ports} {l : List PortAccess}
    (h : l = [] ∨ l = [.clock] ∨ l = [.clock, .sensor]) : PortOrder answers l := by
  have none_written (clock sensor : Bool) (horder : sensor = true → clock = true) :
      PortOrder answers ((if clock then [.clock] else []) ++ if sensor then [.sensor] else []) :=
    ⟨clock, sensor, ⟨0#32, 0#32, 0#32⟩, 0, (List.append_nil _).symm, horder, fun h => absurd rfl h, .inl rfl⟩
  obtain rfl | rfl | rfl := h
  · exact none_written false false id
  · exact none_written true false fun _ => rfl
  · exact none_written true true fun _ => rfl

/-- A DRIVE begun after the clock, or the clock and the sensor, keeps the order. -/
theorem drive_portOrder (q d th : B32) {s : State}
    (h : s.env.portLog = [.clock] ∨ s.env.portLog = [.clock, .sensor]) :
    PortOrder s.env.ports (drive q d th s).state.env.portLog := by
  rw [drive_log]
  split
  · exact .of_asked (.inr (by simpa using h))
  · obtain e | e := h <;> rw [e]
    · exact ⟨true, false, _, _, rfl, fun _ => rfl, fun _ => rfl, .inr (dutyWrites_eq _)⟩
    · exact ⟨true, true, _, _, rfl, fun _ => rfl, fun _ => rfl, .inr (dutyWrites_eq _)⟩

@[simp] theorem aimed_env (s : State) : (aimed s).env = s.env := by
  unfold aimed
  split <;> rfl

section Commands
variable {s : State}

theorem recorded_portLog (a : B32) (hlog : s.env.portLog = []) : (recorded a s).env.portLog = [.clock, .sensor] := by
  simp [recorded, Env.logged, hlog]

theorem tick_portOrder (hlog : s.env.portLog = []) : PortOrder s.env.ports (tick s).env.portLog := by
  obtain ⟨e, l, h, hl⟩ | ⟨a, -, h⟩ := tick_cases s <;> rw [h]
  · exact .of_asked (by simpa [Env.logged, hlog] using hl)
  · rw [record_eq_recorded]
    have hasked := recorded_portLog a hlog
    obtain ⟨-, e⟩ | e | ⟨q, d, th, v, p, e⟩ := tickControl_outcome (recorded a s) <;> rw [e]
    · exact .of_asked (.inr (.inr hasked))
    · exact .of_asked (.inr (.inr (by simpa [deadbandNoOp] using hasked)))
    · have horder := drive_portOrder q d th (s := setDeadband false { aimed (recorded a s) with vpid := v, apid := p })
        (.inr (by simpa using hasked))
      simpa [recorded, Env.logged] using horder

theorem olTick_portOrder (hlog : s.env.portLog = []) : PortOrder s.env.ports (olTick s).env.portLog := by
  unfold olTick
  split
  · have hasked : (logPort .clock s).env.portLog = [.clock] := by simp [hlog]
    unfold olClock
    split
    · exact .of_asked (.inr (.inl hasked))
    · exact drive_portOrder _ _ _ (s := olIntegrate _ (logPort .clock s)) (.inl hasked)
  · exact .of_asked (.inl hlog)

/-- The forcing pulse of ALIGN is one DRIVE; entering the dwell accesses no port (45_align.md R203). -/
theorem alignPulse_portOrder (hasked : s.env.portLog = [.clock, .sensor]) :
    PortOrder s.env.ports (alignPulse s).env.portLog := by
  obtain ⟨q, d, th, ⟨e, -⟩ | e⟩ := alignPulse_outcome s <;> rw [e] <;> exact drive_portOrder q d th (.inr hasked)

theorem alignPhase1_portOrder (hlog : s.env.portLog = []) : PortOrder s.env.ports (alignPhase1 s).env.portLog := by
  unfold alignPhase1
  split
  · have hclock : (logPort .clock s).env.portLog = [.clock] := by simp [hlog]
    unfold alignClock
    split
    · exact .of_asked (.inr (.inl hclock))
    · have hsensor : (logPort .sensor (logPort .clock s)).env.portLog = [.clock, .sensor] := by simp [hlog]
      unfold alignSensor
      split
      · exact .of_asked (.inr (.inr hsensor))
      · exact alignPulse_portOrder (s := record _ _ (logPort .sensor (logPort .clock s))) hsensor
  · exact .of_asked (.inl hlog)

/-- Phase 2 of ALIGN asks the clock and the sensor and drives nothing (45_align.md R205). -/
theorem alignPhase2_portLog (hlog : s.env.portLog = []) : (alignPhase2 s).env.portLog = [.clock, .sensor] := by
  have hasked : (phase2Start s).env.portLog = [.clock, .sensor] := by simp [phase2Start, hlog]
  obtain ⟨e, h⟩ | ⟨a, -, h | ⟨off, h⟩⟩ := alignPhase2_outcome s <;> rw [h] <;> exact hasked

theorem exec_portOrder {i : Instr} {t : State} (h : exec i s = .next t) (hlog : s.env.portLog = []) :
    PortOrder s.env.ports t.env.portLog := by
  cases i <;> obtain rfl := Host.Outcome.next.inj h
  case tick => exact tick_portOrder hlog
  case olTick => exact olTick_portOrder hlog
  case align => exact alignPhase1_portOrder hlog
  all_goals exact .of_asked (.inl hlog)

theorem blockStep_portOrder {t : State} (h : blockStep s = .next t) (hlog : s.env.portLog = []) :
    PortOrder s.env.ports t.env.portLog := by
  obtain ⟨-, -, e⟩ | ⟨w, -, -, e⟩ | e := blockStep_outcome s <;> rw [e] at h
  · exact Host.Outcome.next.inj h ▸ .of_asked (.inr (.inr (alignPhase2_portLog hlog)))
  · unfold runWord at h
    split at h
    next => exact Host.Outcome.next.inj h ▸ .of_asked (.inl hlog)
    next => exact exec_portOrder (s := takePending s) h hlog
  · exact Host.Outcome.next.inj h ▸ .of_asked (.inl hlog)

end Commands

/-- A host write changes registers, never the world around the block. -/
theorem writeOffset_env (off : Nat) (v : Word) (s : State) : (writeOffset off v s).env = s.env := by
  obtain e | ⟨r, -, e⟩ := writeOffset_cases off v s <;> rw [e]
  obtain e | e | ⟨-, -, e⟩ | ⟨-, -, e⟩ := writeReg_cases r v s <;> rw [e] <;> rfl

theorem hostAccess_portLog {a : HostAccess} {s t : State} (h : hostAccess a s = .next t) :
    t.env.portLog = s.env.portLog := by
  obtain ⟨addr, e⟩ | ⟨b, u, e, hu⟩ := hostAccess_cases a s <;> rw [e] at h
  · cases h
  · obtain rfl := Host.Outcome.next.inj h
    rw [respond_env_portLog]
    obtain rfl | ⟨off, v, rfl⟩ := hu
    · rfl
    · rw [writeOffset_env]

/-- Settles O54: every step begins with an empty port log, and only a block step adds to it. -/
theorem portsAreAccessedInOrder : Obligations.PortsAreAccessedInOrder := by
  intro s t h
  obtain ⟨hev, e⟩ | ⟨a, rest, hev, e⟩ | ⟨p, rest, hev, e⟩ | ⟨rest, hev, e⟩ := step_cases s <;>
    rw [e] at h <;> rw [hev]
  · exact ⟨fun _ _ => nofun, fun _ => Host.Outcome.next.inj h ▸ rfl⟩
  · exact ⟨fun _ _ => nofun, fun _ => hostAccess_portLog h⟩
  · refine ⟨?_, fun hno => absurd rfl (hno p rest)⟩
    rintro _ _ ⟨⟩
    exact blockStep_portOrder h rfl
  · exact ⟨fun _ _ => nofun, fun _ => Host.Outcome.next.inj h ▸ rfl⟩

end Sys2Proof.Machine

/-! SUPPORT. Proofs of the statements about the encoding of the commands (30_encoding.md): decoding and encoding are
inverse, which words decode at all, and the block step of a word that does not. -/

namespace Sys2Proof.Machine

/-! ### Decoding inverts encoding (30_encoding.md R80, R88, R90) -/

/-- The word of a well-formed command decodes to it: its three fields lead the decoder to its line of R88. -/
theorem decodeWith_encode {ol : Bool} {i : Instr} (h : i.wfWith ol = true) : decodeWith ol (encode i) = .ok i := by
  obtain ⟨hop, hrsv, himm⟩ := encode_fields i
  simp only [decodeWith, hop, hrsv, himm]
  cases i with
  | modeRatchet steps =>
    have hsteps : steps ≠ 0#16 := by simpa [Instr.wfWith] using h
    simp [Instr.opcode, Instr.imm, hsteps]
  | olTick =>
    obtain rfl : ol = true := h
    rfl
  | _ => rfl

theorem noImmediate_eq_ok {imm : BitVec 16} {i j : Instr} : noImmediate imm j = .ok i ↔ imm = 0#16 ∧ j = i := by
  unfold noImmediate
  split <;> simp_all

/-- What a word that decodes has in its fields: the well-formed command's opcode and immediate, and RSV 0. -/
theorem fields_of_decodeWith {ol : Bool} {w : Word} {i : Instr} (h : decodeWith ol w = .ok i) :
    i.wfWith ol = true ∧ opcodeOf w = i.opcode ∧ rsvOf w = 0#8 ∧ immOf w = i.imm := by
  simp only [decodeWith, noImmediate_eq_ok, ite_eq_iff, reduceCtorEq, and_false, false_or, or_false,
    Except.ok.injEq] at h
  obtain ⟨hrsv, ⟨hop, hsteps, rfl⟩ | ⟨-, h⟩⟩ := h
  · exact ⟨by simpa [Instr.wfWith] using hsteps, hop, not_not.1 hrsv, rfl⟩
  · obtain ⟨hop, himm, rfl⟩ | ⟨-, ⟨hop, himm, rfl⟩ | ⟨-, ⟨hop, rfl, himm, rfl⟩ | ⟨-, ⟨hop, himm, rfl⟩ |
      ⟨-, ⟨hop, himm, rfl⟩ | ⟨-, ⟨hop, himm, rfl⟩ | ⟨-, ⟨hop, himm, rfl⟩ | ⟨-, ⟨hop, himm, rfl⟩ |
      ⟨-, hop, himm, rfl⟩⟩⟩⟩⟩⟩⟩⟩ := h <;> exact ⟨rfl, hop, not_not.1 hrsv, himm⟩

/-- The decoder reads exactly the words of the well-formed commands. -/
theorem decodeWith_eq_ok_iff {ol : Bool} {w : Word} {i : Instr} :
    decodeWith ol w = .ok i ↔ i.wfWith ol = true ∧ encode i = w := by
  constructor
  · intro h
    obtain ⟨hwf, hop, hrsv, himm⟩ := fields_of_decodeWith h
    exact ⟨hwf, encode_eq_of_fields w i hop hrsv himm⟩
  · rintro ⟨hwf, rfl⟩
    exact decodeWith_encode hwf

/-- Settles O1: one direction of `decodeWith_eq_ok_iff`. -/
theorem decodeOfEncode : Obligations.DecodeOfEncode := fun _ _ => decodeWith_encode

/-- Settles O2: the other direction of `decodeWith_eq_ok_iff`. -/
theorem decodedWordIsItsEncoding : Obligations.DecodedWordIsItsEncoding := fun _ _ _ => decodeWith_eq_ok_iff.1

/-! ### Which words decode (30_encoding.md R84 to R86) -/

/-- The opcodes of the map (30_encoding.md R84). -/
def opcodeMap : List (BitVec 8) :=
  [0x00#8, 0x01#8, 0x02#8, 0x03#8, 0x10#8, 0x11#8, 0x12#8, 0x13#8, 0x14#8, 0xFF#8]

theorem legalOpcode (i : Instr) : i.opcode ∈ opcodeMap ∧ (i.opcode ≠ 0x13#8 → i.imm = 0#16) := by
  cases i with
  | nop => exact Laws.LegalOpcode.nop
  | tick => exact Laws.LegalOpcode.tick
  | olTick => exact Laws.LegalOpcode.olTick
  | align => exact Laws.LegalOpcode.align
  | modeVelocity => exact Laws.LegalOpcode.modeVelocity
  | modeAngle => exact Laws.LegalOpcode.modeAngle
  | modeTorque => exact Laws.LegalOpcode.modeTorque
  | modeRatchet steps => exact Laws.LegalOpcode.modeRatchet steps
  | modeLimitPos => exact Laws.LegalOpcode.modeLimitPos
  | sreset => exact Laws.LegalOpcode.sreset

/-- A command is its opcode with its immediate: the pairs of R84 that occur. -/
theorem exists_command_iff {op : BitVec 8} {imm : BitVec 16} :
    (∃ i : Instr, i.opcode = op ∧ i.imm = imm) ↔ op ∈ opcodeMap ∧ (op ≠ 0x13#8 → imm = 0#16) := by
  constructor
  · rintro ⟨i, rfl, rfl⟩
    exact legalOpcode i
  · rintro ⟨hmap, himm⟩
    by_cases hratchet : op = 0x13#8
    · exact ⟨.modeRatchet imm, hratchet.symm, rfl⟩
    · obtain rfl := himm hratchet
      simp only [opcodeMap, List.mem_cons, List.not_mem_nil, or_false] at hmap
      obtain rfl | rfl | rfl | rfl | rfl | rfl | rfl | rfl | rfl | rfl := hmap
      exacts [⟨.nop, rfl, rfl⟩, ⟨.tick, rfl, rfl⟩, ⟨.olTick, rfl, rfl⟩, ⟨.align, rfl, rfl⟩,
        ⟨.modeVelocity, rfl, rfl⟩, ⟨.modeAngle, rfl, rfl⟩, ⟨.modeTorque, rfl, rfl⟩, absurd rfl hratchet,
        ⟨.modeLimitPos, rfl, rfl⟩, ⟨.sreset, rfl, rfl⟩]

/-- Well-formedness is a condition on the opcode and the immediate (30_encoding.md R85). -/
theorem wfWith_iff {ol : Bool} {i : Instr} :
    i.wfWith ol = true ↔ (i.opcode = 0x13#8 → i.imm ≠ 0#16) ∧ (i.opcode = 0x02#8 → ol = true) := by
  cases i <;> simp [Instr.wfWith, Instr.opcode, Instr.imm]

/-- Which words decode, field by field. -/
theorem exists_decodeWith_ok_iff {ol : Bool} {w : Word} :
    (∃ i, decodeWith ol w = .ok i) ↔
      rsvOf w = 0#8 ∧ opcodeOf w ∈ opcodeMap ∧ (opcodeOf w = 0x13#8 → immOf w ≠ 0#16) ∧
        (opcodeOf w ≠ 0x13#8 → immOf w = 0#16) ∧ (opcodeOf w = 0x02#8 → ol = true) := by
  constructor
  · rintro ⟨i, h⟩
    obtain ⟨hwf, hop, hrsv, himm⟩ := fields_of_decodeWith h
    obtain ⟨hsteps, hol⟩ := wfWith_iff.1 hwf
    obtain ⟨hmap, hstray⟩ := legalOpcode i
    rw [hop, himm]
    exact ⟨hrsv, hmap, hsteps, hstray, hol⟩
  · rintro ⟨hrsv, hmap, hsteps, hstray, hol⟩
    obtain ⟨i, hop, himm⟩ := exists_command_iff.2 ⟨hmap, hstray⟩
    rw [← hop, ← himm] at hsteps
    rw [← hop] at hol
    exact ⟨i, decodeWith_eq_ok_iff.2 ⟨wfWith_iff.2 ⟨hsteps, hol⟩, encode_eq_of_fields w i hop.symm hrsv himm.symm⟩⟩

/-- The decoder answers either a command or a reason. -/
theorem exists_decodeWith_error_iff {ol : Bool} {w : Word} :
    (∃ e, decodeWith ol w = .error e) ↔ ¬ ∃ i, decodeWith ol w = .ok i := by
  cases decodeWith ol w <;> simp

/-- A block event is a block step with its port answers, the event taken. -/
theorem step_block {p : Ports} {rest : List Event} {s : State} (h : s.env.agenda = .block p :: rest) :
    step s = blockStep (atBlockStep p rest s) := by
  have hstep : step s = blockStep (setPorts p (beginStep rest s)) := by simp [step, runAgenda, h, runEvent]
  exact hstep

/-- The block step of a pending word that does not decode: PENDING is taken and the result is ILLEGAL
(43_commands.md R160, R169). -/
theorem step_illegal {p : Ports} {rest : List Event} {w : Word} {e : DecodeError} {s : State}
    (hev : s.env.agenda = .block p :: rest) (hidle : s.align.phase = .idle) (hw : s.pending = some w)
    (he : decode w = .error e) : step s = .next (raise .illegal (takePending (atBlockStep p rest s))) :=
  calc step s = blockStep (atBlockStep p rest s) := step_block hev
    _ = runWord w (takePending (atBlockStep p rest s)) := blockStep_pending _ w hidle hw
    _ = .next (raise .illegal (takePending (atBlockStep p rest s))) := by simp only [runWord, he, completeIllegal]

/-- Settles O3: the illegal words are those that fail one of the conditions of `exists_decodeWith_ok_iff`. -/
theorem illegalWordsAndTheirEffect : Obligations.IllegalWordsAndTheirEffect := by
  refine ⟨fun ol w => ?_, fun _ _ _ _ _ => step_illegal⟩
  rw [exists_decodeWith_error_iff, exists_decodeWith_ok_iff]
  simp only [not_and_or, Classical.not_imp, not_not, Bool.not_eq_true]
  rfl

/-- Settles O4: no command has a reserved opcode, and the word of NOP is 0. -/
theorem reservedOpcodesAreIllegal : Obligations.ReservedOpcodesAreIllegal := by
  refine ⟨fun ol w hreserved => ?_, fun ol w h => (decodeWith_eq_ok_iff.1 h).2.symm⟩
  rw [exists_decodeWith_error_iff, exists_decodeWith_ok_iff]
  rintro ⟨-, hmap, -⟩
  have hgap : ∀ op ∈ opcodeMap, ¬ ((0x04#8 ≤ op ∧ op ≤ 0x0F#8) ∨ (0x15#8 ≤ op ∧ op ≤ 0xFE#8)) := by decide
  exact hgap _ hmap hreserved

/-- Settles O5: the five words are those of their commands; in the sixth MODE_RATCHET has 0 steps. -/
theorem wordsOfTheOpcodeMapDecode : Obligations.WordsOfTheOpcodeMapDecode :=
  ⟨decodeWith_encode (i := .tick) rfl, decodeWith_encode (i := .align) rfl, decodeWith_encode (i := .modeAngle) rfl,
    decodeWith_encode (i := .modeRatchet 4#16) rfl, decodeWith_encode (i := .sreset) rfl, by decide⟩

end Sys2Proof.Machine

/-! SUPPORT. Proofs of the statements about the sensor (40_sensor.md): which answers are in range, what a record writes
and when its revolution counter steps, and the electrical angle. -/

namespace Sys2Proof.Machine

/-! ### The answers in range (40_sensor.md R101) -/

theorem F32.isNaN_zero : F32.isNaN Config.zero = false := by decide
theorem F32.key_zero : F32.key Config.zero = 0 := by decide

/-- A word without the sign bit is its own place in the order. -/
theorem F32.key_eq_toNat {a : B32} (hs : F32.sign a = false) : F32.key a = a.toNat := by
  simp [F32.key, F32.toNat_eq a, hs]

/-- From zero on the order holds -0.0 and the words without the sign bit. -/
theorem F32.key_nonneg_cases (a : B32) (h : 0 ≤ F32.key a) : a = 0x80000000#32 ∨ F32.key a = a.toNat := by
  cases hs : F32.sign a with
  | true =>
    have hzero : F32.mag a = 0 := by simpa [F32.key, hs] using h
    exact .inl (F32.eq_of_sign_mag hs hzero)
  | false => exact .inr (F32.key_eq_toNat hs)

/-- R101 bounds the place in the order; the place a NaN's bits would have lies outside these bounds. -/
theorem inRange_iff_key (a : B32) : inRange a = true ↔ 0 ≤ F32.key a ∧ F32.key a < 0x40C90FDB := by
  have htop : F32.isNaN Config.twoPi32 = false ∧ F32.key Config.twoPi32 = 0x40C90FDB := by decide
  have hnan : 0 ≤ F32.key a → F32.key a < 0x40C90FDB → F32.isNaN a = false := by
    intro hlo hhi
    have hmag := F32.key_natAbs a
    rw [F32.isNaN_false_iff, F32.infMag]
    omega
  rw [inRange, Bool.and_eq_true, F32.ge_iff, F32.lt_iff, F32.isNaN_zero, F32.key_zero, htop.1, htop.2]
  tauto

theorem inRange_iff (a : B32) : inRange a = true ↔ (a = 0x80000000#32 ∨ a.toNat < 0x40C90FDB) := by
  rw [inRange_iff_key]
  constructor
  · rintro ⟨hlo, hhi⟩
    obtain hneg | hkey := F32.key_nonneg_cases a hlo
    · exact .inl hneg
    · exact .inr (by omega)
  · rintro (rfl | hlt)
    · decide
    · have hsign : F32.sign a = false := by
        rw [F32.sign_eq, decide_eq_false_iff_not]
        omega
      rw [F32.key_eq_toNat hsign]
      omega

/-- Settles O21: `inRange_iff`, and its upper boundary on both sides. -/
theorem sensorRange : Obligations.SensorRange := ⟨inRange_iff, by decide, by decide⟩

/-! ### The record (40_sensor.md R103, R108) -/

/-- After an interval that is not 0 the velocity is the change of the continuous angle over it. -/
theorem velocityEstimate_of_ne {prevDt : U64} (h : prevDt ≠ 0#64) (cont prevCont : B32) :
    velocityEstimate cont prevCont prevDt = F32.div (F32.sub cont prevCont) (F32.secs prevDt) := if_neg h

/-- Settles O22: the first part is the definition written out; in the second the first record leaves S_DT ≠ 0. -/
theorem sensorRecordRule : Obligations.SensorRecordRule := by
  refine ⟨fun _ _ _ => rfl, fun n a1 a2 t1 t2 hmoved => ?_⟩
  have hdt : (n.record a1 t1).dt ≠ 0#64 := sub_ne_zero.2 hmoved
  exact velocityEstimate_of_ne hdt _ _

/-! ### The revolution counter (40_sensor.md R103, R107) -/

/-- A magnitude exceeds a bound when the value lies above the bound or below its negation. -/
theorem F32.gt_abs_iff (x w : B32) :
    F32.gt (F32.abs x) w = true ↔ F32.gt x w = true ∨ F32.lt x (F32.neg w) = true := by
  simp only [F32.gt_iff, F32.lt_iff, F32.isNaN_abs, F32.isNaN_neg, F32.key_abs, F32.key_neg, lt_abs,
    lt_neg (a := F32.key x)]
  tauto

/-- R103 in three cases: the reading grew by more than WRAP_THRESHOLD, fell by more than that, or did neither. -/
theorem unwrap_cases (delta : B32) (rev : Word) :
    (F32.gt delta Config.wrapThreshold = true ∧ F32.lt delta (F32.neg Config.wrapThreshold) = false ∧
      unwrap delta rev = rev - 1#32) ∨
    (F32.gt delta Config.wrapThreshold = false ∧ F32.lt delta (F32.neg Config.wrapThreshold) = true ∧
      unwrap delta rev = rev + 1#32) ∨
    (F32.gt delta Config.wrapThreshold = false ∧ F32.lt delta (F32.neg Config.wrapThreshold) = false ∧
      unwrap delta rev = rev) := by
  have hbound : F32.key Config.wrapThreshold = 0x40A0D97C := by decide
  have hwrap := F32.gt_abs_iff delta Config.wrapThreshold
  unfold unwrap
  cases hup : F32.gt delta Config.wrapThreshold with
  | true =>
    obtain ⟨hnan, -, hkey⟩ := (F32.gt_iff _ _).1 hup
    have hpos : F32.gt delta Config.zero = true :=
      (F32.gt_iff _ _).2 ⟨hnan, F32.isNaN_zero, by rw [F32.key_zero]; omega⟩
    have hdown : F32.lt delta (F32.neg Config.wrapThreshold) = false :=
      (F32.lt_false_iff _ _ hnan (by decide)).2 (by rw [F32.key_neg]; omega)
    simp [hwrap, hup, hpos, hdown]
  | false =>
    cases hdown : F32.lt delta (F32.neg Config.wrapThreshold) with
    | true =>
      obtain ⟨hnan, -, hkey⟩ := (F32.lt_iff _ _).1 hdown
      have hpos : F32.gt delta Config.zero = false :=
        (F32.gt_false_iff _ _ hnan F32.isNaN_zero).2 (by rw [F32.key_neg] at hkey; rw [F32.key_zero]; omega)
      simp [hwrap, hdown, hpos]
    | false => simp [hwrap, hup, hdown]

/-- The three counters of `unwrap_cases` are distinct modulo 2³², so each tells its case. -/
theorem unwrap_eq_iff (delta : B32) (rev : Word) :
    (unwrap delta rev = rev - 1#32 ↔ F32.gt delta Config.wrapThreshold = true) ∧
    (unwrap delta rev = rev + 1#32 ↔ F32.lt delta (F32.neg Config.wrapThreshold) = true) ∧
    (unwrap delta rev = rev ↔
      F32.gt delta Config.wrapThreshold = false ∧ F32.lt delta (F32.neg Config.wrapThreshold) = false) := by
  have hdown : rev - 1#32 ≠ rev := by bv_omega
  have hup : rev + 1#32 ≠ rev := by bv_omega
  have hapart : rev - 1#32 ≠ rev + 1#32 := by bv_omega
  obtain ⟨hgt, hlt, hrev⟩ | ⟨hgt, hlt, hrev⟩ | ⟨hgt, hlt, hrev⟩ := unwrap_cases delta rev
  · simp [hgt, hlt, hrev, hdown, hapart]
  · simp [hgt, hlt, hrev, hup, hapart.symm]
  · simp [hgt, hlt, hrev, hdown.symm, hup.symm]

/-- Settles O23: the counter of a record is `unwrap` of the change of the angle. -/
theorem revolutionCounterStepsOnlyAtWraps : Obligations.RevolutionCounterStepsOnlyAtWraps := by
  intro n a t
  have hneg : F32.neg Config.wrapThreshold = 0xC0A0D97C#32 := by decide
  exact hneg ▸ unwrap_eq_iff (F32.sub a n.angle) n.rev

/-! ### The electrical angle (40_sensor.md R104 to R106) -/

theorem normalize_of_lt {x : B32} (h : F32.lt (F32.fmod x Config.twoPi32) Config.zero = true) :
    normalize x = F32.add (F32.fmod x Config.twoPi32) Config.twoPi32 := if_pos h

theorem normalize_of_not_lt {x : B32} (h : F32.lt (F32.fmod x Config.twoPi32) Config.zero = false) :
    normalize x = F32.fmod x Config.twoPi32 := by simp [normalize, h]

theorem F32.isNaN_or_isInf_of_not_isFinite {x : B32} (h : F32.isFinite x = false) :
    F32.isNaN x = true ∨ F32.isInf x = true := by
  rw [F32.isNaN_iff, F32.isInf_iff]
  rw [F32.isFinite, decide_eq_false_iff_not] at h
  omega

theorem F32.fmod_isNaN {x : B32} (h : F32.isFinite x = false) (y : B32) : F32.isNaN (F32.fmod x y) = true := by
  obtain hx | hx := F32.isNaN_or_isInf_of_not_isFinite h <;> simp [F32.fmod, hx]

/-- The remainder of an infinite or NaN angle is a NaN, which is not below zero and so comes out. -/
theorem normalize_isNaN {x : B32} (h : F32.isFinite x = false) : F32.isNaN (normalize x) = true := by
  have hr := F32.fmod_isNaN h Config.twoPi32
  rw [normalize_of_not_lt (F32.lt_false_of_isNaN_left _ _ hr)]
  exact hr

theorem electricalAngle_of_aligned {s : State} (h : s.status.aligned = true) :
    electricalAngle s = normalize (F32.sub (F32.mul s.sensor.angle (pp s)) s.calOffset) := by
  simp [electricalAngle, calibrationOffset, h]

theorem electricalAngle_of_not_aligned {s : State} (h : s.status.aligned = false) :
    electricalAngle s = normalize (F32.sub (F32.mul s.sensor.angle (pp s)) Config.zero) := by
  simp [electricalAngle, calibrationOffset, h]

theorem pp_of_polePairs_seven {s : State} (h : s.motor.polePairs = 7#32) : pp s = 0x40E00000#32 := by
  rw [pp, h]
  decide

/-- Settles O60: one lemma per case, and the worked examples computed. -/
theorem electricalAngleRule : Obligations.ElectricalAngleRule := by
  refine ⟨fun x => ⟨normalize_of_lt, normalize_of_not_lt, normalize_isNaN⟩,
    fun s => ⟨electricalAngle_of_aligned, electricalAngle_of_not_aligned, fun ha hpp hunaligned => ?_⟩,
    fun a s => ⟨rfl, fun ha hpp => ?_⟩, by decide, by decide, by decide⟩
  · rw [electricalAngle_of_not_aligned hunaligned, ha, pp_of_polePairs_seven hpp]
    decide
  · rw [rawElectricalAngle, ha, pp_of_polePairs_seven hpp]
    decide

end Sys2Proof.Machine

/-! SUPPORT. Proofs of the statements about the PID (41_pid.md): what `pid_compute` returns and writes, what it does with
zero gains, and the document's Scenario E. -/

namespace Sys2Proof.Machine

/-! ### Equality in value and the clamp (00_scope.md R12) -/

theorem F32.isFinite_iff_abs_key (x : B32) : F32.isFinite x = true ↔ |F32.key x| < (F32.infMag : Int) := by
  rw [F32.isFinite_iff, ← F32.key_natAbs, Int.abs_eq_natAbs, Nat.cast_lt]

/-- A finite value's place in the order decides which values equal it. -/
theorem F32.eq_of_key_eq {x y : B32} (hy : F32.isFinite y = true) (h : F32.key x = F32.key y) :
    F32.eq x y = true := by
  have hx : F32.isFinite x = true := by rwa [F32.isFinite_iff_abs_key, h, ← F32.isFinite_iff_abs_key]
  exact (F32.eq_iff x y).2 ⟨F32.isFinite_not_isNaN x hx, F32.isFinite_not_isNaN y hy, h⟩

theorem F32.isZero_eq_false_of_gt_zero {x : B32} (h : F32.gt x Config.zero = true) : F32.isZero x = false := by
  obtain ⟨-, -, hpos⟩ := (F32.gt_iff _ _).1 h
  rw [Bool.eq_false_iff, ne_eq, ← F32.key_isZero, ← F32.key_zero]
  exact hpos.ne'

/-- The clamp is the clamp of the places in the order. -/
theorem F32.key_clamp {x lo hi : B32} (hx : F32.isNaN x = false) (hlo : F32.isNaN lo = false)
    (hhi : F32.isNaN hi = false) (h : F32.key lo ≤ F32.key hi) :
    F32.key (F32.clamp x lo hi) = max (F32.key lo) (min (F32.key x) (F32.key hi)) := by
  unfold F32.clamp
  split_ifs with hlow hhigh
  · have := (F32.lt_iff _ _).1 hlow
    omega
  · have := (F32.gt_iff _ _).1 hhigh
    omega
  · rw [Bool.not_eq_true, F32.lt_false_iff _ _ hx hlo] at hlow
    rw [Bool.not_eq_true, F32.gt_false_iff _ _ hx hhi] at hhigh
    omega

/-! ### The rule of `pid_compute` (41_pid.md R121) -/

/-- Settles O25: the model's named terms, written out, are those of the pseudocode. -/
theorem pidComputeRule : Obligations.PidComputeRule := fun _ _ _ _ => ⟨rfl, rfl⟩

theorem Pid.output_of_ramp_off {p : Pid} (h : p.rampEn = false) (target measured dt : B32) :
    p.output target measured dt = p.raw (F32.sub target measured) dt := by
  simp [Pid.output, Pid.slew, h]

/-! ### The bound (41_pid.md R122) -/

theorem Pid.bound_of_limit_on {p : Pid} (h : p.limitEn = true) (x : B32) :
    p.bound x = F32.clamp x (F32.neg p.limit) p.limit := if_pos h

theorem Pid.bound_of_limit_off {p : Pid} (h : p.limitEn = false) (x : B32) : p.bound x = x := by
  simp [Pid.bound, h]

/-- What CFG_OK asks of the limit (43_commands.md R161). -/
def Pid.LimitLegal (p : Pid) : Prop := p.limitEn = true → F32.ge p.limit Config.zero = true

section Bound

variable {p : Pid} (hl : p.LimitLegal)
include hl

/-- Where the bound puts a finite value in the order. -/
theorem Pid.key_bound_of_limit_on (hen : p.limitEn = true) {x : B32} (hx : F32.isFinite x = true) :
    F32.key (p.bound x) = max (-F32.key p.limit) (min (F32.key x) (F32.key p.limit)) ∧ 0 ≤ F32.key p.limit := by
  obtain ⟨hn, -, hpos⟩ := (F32.ge_iff _ _).1 (hl hen)
  rw [F32.key_zero] at hpos
  have hneg : F32.isNaN (F32.neg p.limit) = false := by rw [F32.isNaN_neg, hn]
  have hle : F32.key (F32.neg p.limit) ≤ F32.key p.limit := by
    rw [F32.key_neg]
    omega
  rw [Pid.bound_of_limit_on hen, F32.key_clamp (F32.isFinite_not_isNaN x hx) hneg hn hle, F32.key_neg]
  exact ⟨rfl, hpos⟩

theorem Pid.bound_isFinite {x : B32} (hx : F32.isFinite x = true) : F32.isFinite (p.bound x) = true := by
  cases hen : p.limitEn with
  | false => rwa [Pid.bound_of_limit_off hen]
  | true =>
    obtain ⟨hkey, hpos⟩ := Pid.key_bound_of_limit_on hl hen hx
    rw [F32.isFinite_iff_abs_key, abs_lt] at hx ⊢
    omega

/-- The bound of a finite value depends on its value alone, not on the sign of a zero. -/
theorem Pid.key_bound_congr {x y : B32} (hx : F32.isFinite x = true) (hy : F32.isFinite y = true)
    (h : F32.key x = F32.key y) : F32.key (p.bound x) = F32.key (p.bound y) := by
  cases hen : p.limitEn with
  | false => rw [Pid.bound_of_limit_off hen, Pid.bound_of_limit_off hen, h]
  | true => rw [(Pid.key_bound_of_limit_on hl hen hx).1, (Pid.key_bound_of_limit_on hl hen hy).1, h]

/-- What has been bounded once is within the bound. -/
theorem Pid.key_bound_bound {x : B32} (hx : F32.isFinite x = true) :
    F32.key (p.bound (p.bound x)) = F32.key (p.bound x) := by
  cases hen : p.limitEn with
  | false => rw [Pid.bound_of_limit_off hen]
  | true =>
    obtain ⟨hkey, hpos⟩ := Pid.key_bound_of_limit_on hl hen hx
    obtain ⟨hkey', -⟩ := Pid.key_bound_of_limit_on hl hen (Pid.bound_isFinite hl hx)
    omega

/-- A value within the limit keeps its place. -/
theorem Pid.key_bound_of_abs_le (hen : p.limitEn = true) {x : B32} (hx : F32.isFinite x = true)
    (h : F32.ge p.limit (F32.abs x) = true) : F32.key (p.bound x) = F32.key x := by
  obtain ⟨hkey, -⟩ := Pid.key_bound_of_limit_on hl hen hx
  obtain ⟨-, -, hle⟩ := (F32.ge_iff _ _).1 h
  rw [F32.key_abs, abs_le] at hle
  omega

end Bound

/-! ### Zero gains (41_pid.md R126) -/

/-- R126's premises on the PID and on the operands of `pid_compute`, the error given. -/
structure Pid.ZeroGains (p : Pid) (err dt : B32) : Prop where
  kp : F32.isZero p.kp = true
  ki : F32.isZero p.ki = true
  kd : F32.isZero p.kd = true
  err : F32.isZero err = true
  integ : F32.isFinite p.integ = true
  prevErr : F32.isFinite p.prevErr = true
  dt_finite : F32.isFinite dt = true
  dt_pos : F32.gt dt Config.zero = true

section ZeroGains

variable {p : Pid} {err dt : B32} (h : p.ZeroGains err dt)
include h

theorem Pid.ZeroGains.proportional_isZero : F32.isZero (F32.mul p.kp err) = true :=
  F32.mul_isZero_left _ _ h.kp (F32.isZero_isFinite _ h.err)

theorem Pid.ZeroGains.integralStep_isZero :
    F32.isZero (F32.mul (F32.mul (F32.mul p.ki dt) Config.half) (F32.add err p.prevErr)) = true := by
  have hkidt := F32.mul_isZero_left _ _ h.ki h.dt_finite
  have hhalf := F32.mul_isZero_left _ Config.half hkidt (by decide)
  have hsum := F32.add_zero_left _ _ h.err h.prevErr
  exact F32.mul_isZero_left _ _ hhalf hsum.2

theorem Pid.ZeroGains.derivative_isZero :
    F32.isZero (F32.div (F32.mul p.kd (F32.sub err p.prevErr)) dt) = true := by
  have hdiff := F32.sub_zero_left _ _ h.err h.prevErr
  have hkd := F32.mul_isZero_left _ _ h.kd hdiff.2
  exact F32.div_isZero_left _ _ hkd h.dt_finite (F32.isZero_eq_false_of_gt_zero h.dt_pos)

/-- The integral adds a zero to INTEG and bounds the sum. -/
theorem Pid.ZeroGains.integral (hl : p.LimitLegal) :
    F32.key (p.integral err dt) = F32.key (p.bound p.integ) ∧ F32.isFinite (p.integral err dt) = true := by
  obtain ⟨hkey, hfin⟩ := F32.add_zero_right _ _ h.integ h.integralStep_isZero
  exact ⟨Pid.key_bound_congr hl hfin h.integ hkey, Pid.bound_isFinite hl hfin⟩

/-- The other two terms are zeros, and what the integral is bounded to the second bound keeps. -/
theorem Pid.ZeroGains.key_raw (hl : p.LimitLegal) : F32.key (p.raw err dt) = F32.key (p.bound p.integ) := by
  obtain ⟨hikey, hifin⟩ := h.integral hl
  obtain ⟨hpikey, hpifin⟩ := F32.add_zero_left _ _ h.proportional_isZero hifin
  obtain ⟨hsumkey, hsumfin⟩ := F32.add_zero_right _ _ hpifin h.derivative_isZero
  have hbfin := Pid.bound_isFinite hl h.integ
  calc F32.key (p.raw err dt)
      = F32.key (p.bound (p.bound p.integ)) :=
        Pid.key_bound_congr hl hsumfin hbfin (hsumkey.trans (hpikey.trans hikey))
    _ = F32.key (p.bound p.integ) := Pid.key_bound_bound hl h.integ

end ZeroGains

/-- Settles O27: output and integral both stand where INTEG, bounded, stands; the two cases say what that bound is. -/
theorem pidZeroGainsReturnTheIntegral : Obligations.PidZeroGainsReturnTheIntegral := by
  intro P target measured dt hkp hki hkd hramp herr hinteg hprev hdt hpos
  have h : P.ZeroGains (F32.sub target measured) dt := ⟨hkp, hki, hkd, herr, hinteg, hprev, hdt, hpos⟩
  rw [Pid.output_of_ramp_off hramp]
  refine ⟨fun hoff => ?_, fun hon hlimit => ?_⟩
  · have hl : P.LimitLegal := fun hon => absurd (hon.symm.trans hoff) (by decide)
    have hbound := Pid.bound_of_limit_off hoff P.integ
    exact ⟨F32.eq_of_key_eq hinteg (hbound ▸ h.key_raw hl), F32.eq_of_key_eq hinteg (hbound ▸ (h.integral hl).1)⟩
  · have hl : P.LimitLegal := fun _ => hlimit
    rw [← Pid.bound_of_limit_on hon]
    refine ⟨F32.eq_of_key_eq (Pid.bound_isFinite hl hinteg) (h.key_raw hl), fun hwithin => ?_⟩
    exact F32.eq_of_key_eq hinteg ((h.integral hl).1.trans (Pid.key_bound_of_abs_le hl hon hinteg hwithin))

/-! ### Scenario E (41_pid.md R127) -/

/-- The PID of Scenario E: KP = 1 alone, from reset. -/
def scenarioE : Pid := { Pid.reset with kp := 0x3F800000#32 }

/-- The same PID after its first computation, which returned 10. -/
def scenarioEAfterFirst : Pid := { scenarioE with prevErr := 0x41200000#32, prevOut := 0x41200000#32 }

theorem scenarioE_advance : scenarioE.advance 0x41200000#32 0#32 0x3F800000#32 = scenarioEAfterFirst := by
  have herr : F32.sub 0x41200000#32 0#32 = 0x41200000#32 := by decide
  have hinteg : scenarioE.integral 0x41200000#32 0x3F800000#32 = scenarioE.integ := by decide
  have hout : scenarioE.output 0x41200000#32 0#32 0x3F800000#32 = 0x41200000#32 := by decide
  rw [Pid.advance, hout, herr, hinteg, scenarioEAfterFirst]

theorem scenarioEAfterFirst_advance :
    scenarioEAfterFirst.advance 0x41200000#32 0x3F800000#32 0x3F800000#32 =
      { scenarioE with prevErr := 0x41100000#32, prevOut := 0x41100000#32 } := by
  have herr : F32.sub 0x41200000#32 0x3F800000#32 = 0x41100000#32 := by decide
  have hinteg : scenarioEAfterFirst.integral 0x41100000#32 0x3F800000#32 = scenarioE.integ := by decide
  have hout : scenarioEAfterFirst.output 0x41200000#32 0x3F800000#32 0x3F800000#32 = 0x41100000#32 := by decide
  rw [Pid.advance, hout, herr, hinteg, scenarioEAfterFirst]

theorem scenarioE_advance_advance :
    (scenarioE.advance 0x41200000#32 0#32 0x3F800000#32).advance 0x41200000#32 0x3F800000#32 0x3F800000#32 =
      { scenarioE with prevErr := 0x41100000#32, prevOut := 0x41100000#32 } := by
  rw [scenarioE_advance, scenarioEAfterFirst_advance]

/-- Settles O28: what the two computations return is what they leave in PREV_OUT; INTEG is as at reset. -/
theorem pidScenarioE : Obligations.PidScenarioE :=
  ⟨congrArg Pid.prevOut scenarioE_advance, congrArg Pid.prevOut scenarioE_advance_advance,
    congrArg Pid.integ scenarioE_advance, congrArg Pid.integ scenarioE_advance_advance,
    congrArg Pid.prevErr scenarioE_advance_advance⟩

end Sys2Proof.Machine

/-! SUPPORT. Proofs of the statements about the transforms and the duties (42_transform_pwm.md): the voltage law, the
duties a drive offers, the bounds of `volt_to_percent` and the legality of every duty a step offers. -/

namespace Sys2Proof.Machine

/-! ### Products and quotients that are no NaN, and zeros that keep their sign (00_scope.md R12) -/

namespace F32

theorem isNaN_infinity (s : Bool) : isNaN (infinity s) = false := isNaN_pack s infMag le_rfl

theorem mul_not_isNaN {a b : B32} (ha : isFinite a = true) (hb : isFinite b = true) :
    isNaN (mul a b) = false := by
  simp [mul, isFinite_not_isNaN, isFinite_not_isInf, ha, hb]

/-- A quotient by a finite value that is no zero is a NaN only for a NaN dividend. -/
theorem div_not_isNaN {a b : B32} (ha : isNaN a = false) (hb : isFinite b = true) (hz : isZero b = false) :
    isNaN (div a b) = false := by
  cases hinf : isInf a with
  | true => simp [div, isFinite_not_isNaN, isFinite_not_isInf, ha, hb, hz, hinf, isNaN_infinity]
  | false => simp [div, isFinite_not_isNaN, isFinite_not_isInf, ha, hb, hz, hinf]

theorem sign_of_gt_zero {x : B32} (h : gt x Config.zero = true) : sign x = false := by
  obtain ⟨-, -, hkey⟩ := (gt_iff _ _).1 h
  rw [key_zero, key] at hkey
  cases hs : sign x with
  | true =>
    rw [hs, if_pos rfl] at hkey
    omega
  | false => rfl

section Zeros
variable {z b : B32} (hz : isZero z = true) (hb : isFinite b = true) (hpos : gt b Config.zero = true)
include hz hb hpos

/-- A zero times a finite positive value is that zero, its sign kept. -/
theorem mul_of_isZero_left : mul z b = z := by
  have hzero := (isZero_iff _).1 (mul_isZero_left z b hz hb)
  refine eq_of_sign_mag ?_ (hzero.trans ((isZero_iff z).1 hz).symm)
  simp [mul, isFinite_not_isNaN, isFinite_not_isInf, isZero_isFinite z hz, hb, sign_of_gt_zero hpos]

/-- A zero over a finite positive value is that zero, its sign kept. -/
theorem div_of_isZero_left : div z b = z := by
  have hne := isZero_eq_false_of_gt_zero hpos
  have hzero := (isZero_iff _).1 (div_isZero_left z b hz hb hne)
  refine eq_of_sign_mag ?_ (hzero.trans ((isZero_iff z).1 hz).symm)
  simp [div, isFinite_not_isNaN, isFinite_not_isInf, isZero_isFinite z hz, hb, hne, sign_of_gt_zero hpos]

end Zeros

end F32

/-! ### The three parts of `volt_to_percent` (42_transform_pwm.md R147, R152) -/

theorem voltToPercent_of_neg {v : B32} (h : F32.lt v Config.zero = true) (supply : B32) :
    voltToPercent v supply = Config.zero := if_pos h

/-- From zero to below the supply the formula of R147 answers, whatever the supply. -/
theorem voltToPercent_between {v supply : B32} (hge : F32.ge v Config.zero = true) (hlt : F32.lt v supply = true) :
    voltToPercent v supply = percentFormula v supply := by
  obtain ⟨hn, hzero, hlow⟩ := (F32.ge_iff _ _).1 hge
  obtain ⟨-, -, hhigh⟩ := (F32.lt_iff _ _).1 hlt
  have hneg : F32.lt v Config.zero = false := (F32.lt_false_iff _ _ hn hzero).2 hlow
  have hbelow : F32.ge v supply = false := by
    rw [Bool.eq_false_iff, ne_eq, F32.ge_iff]
    omega
  simp [voltToPercent, hneg, hbelow]

section LegalSupply
variable {v supply : B32} (hpos : F32.gt supply Config.zero = true)
include hpos

theorem voltToPercent_of_ge_supply (h : F32.ge v supply = true) : voltToPercent v supply = Config.hundred := by
  obtain ⟨hn, -, hge⟩ := (F32.ge_iff _ _).1 h
  obtain ⟨-, hzero, hkey⟩ := (F32.gt_iff _ _).1 hpos
  have hneg : F32.lt v Config.zero = false := (F32.lt_false_iff _ _ hn hzero).2 (by omega)
  simp [voltToPercent, hneg, h]

/-- A voltage that is no NaN lies in one of the three parts. -/
theorem voltage_in_part (hn : F32.isNaN v = false) :
    F32.lt v Config.zero = true ∨ F32.ge v supply = true ∨
      (F32.ge v Config.zero = true ∧ F32.lt v supply = true) := by
  obtain ⟨hns, hzero, -⟩ := (F32.gt_iff _ _).1 hpos
  simp only [F32.lt_iff, F32.ge_iff, hn, hns, hzero, true_and]
  omega

variable (hfin : F32.isFinite supply = true)
include hfin

/-- Below a finite supply nothing overflows into `inf / inf`: the formula is no NaN. -/
theorem percentFormula_not_isNaN (hge : F32.ge v Config.zero = true) (hlt : F32.lt v supply = true) :
    F32.isNaN (percentFormula v supply) = false := by
  obtain ⟨-, -, hlow⟩ := (F32.ge_iff _ _).1 hge
  obtain ⟨-, -, hhigh⟩ := (F32.lt_iff _ _).1 hlt
  have hv : F32.isFinite v = true := by
    rw [F32.key_zero] at hlow
    rw [F32.isFinite_iff_abs_key, abs_lt] at hfin ⊢
    omega
  have hscaled : F32.isNaN (F32.mul v Config.hundred) = false := F32.mul_not_isNaN hv (by decide)
  rw [percentFormula, F32.clamp_isNaN_iff _ _ _ F32.isNaN_zero (by decide)]
  exact F32.div_not_isNaN hscaled hfin (F32.isZero_eq_false_of_gt_zero hpos)

theorem voltToPercent_not_isNaN (hn : F32.isNaN v = false) : F32.isNaN (voltToPercent v supply) = false := by
  obtain hneg | hge | ⟨hge, hlt⟩ := voltage_in_part hpos hn
  · rw [voltToPercent_of_neg hneg]
    decide
  · rw [voltToPercent_of_ge_supply hpos hge]
    decide
  · rw [voltToPercent_between hge hlt]
    exact percentFormula_not_isNaN hpos hfin hge hlt

/-- A zero goes through the product, the quotient and the clamp with its sign. -/
theorem percentFormula_of_isZero (hv : F32.isZero v = true) : percentFormula v supply = v := by
  have hkey := (F32.key_isZero v).2 hv
  have hn := F32.isFinite_not_isNaN v (F32.isZero_isFinite v hv)
  have hlow : F32.lt v Config.zero = false :=
    (F32.lt_false_iff _ _ hn F32.isNaN_zero).2 (by rw [F32.key_zero, hkey])
  have hhigh : F32.gt v Config.hundred = false :=
    (F32.gt_false_iff _ _ hn (by decide)).2 (by rw [hkey]; decide)
  rw [percentFormula, F32.mul_of_isZero_left hv (by decide) (by decide), F32.div_of_isZero_left hv hfin hpos,
    F32.clamp_within _ _ _ hlow hhigh]

theorem voltToPercent_of_isZero (hv : F32.isZero v = true) : voltToPercent v supply = v := by
  have hkey := (F32.key_isZero v).2 hv
  have hn := F32.isFinite_not_isNaN v (F32.isZero_isFinite v hv)
  obtain ⟨hns, -, hsupply⟩ := (F32.gt_iff _ _).1 hpos
  have hge : F32.ge v Config.zero = true := (F32.ge_iff _ _).2 ⟨hn, F32.isNaN_zero, by rw [F32.key_zero, hkey]⟩
  have hlt : F32.lt v supply = true := (F32.lt_iff _ _).2 ⟨hn, hns, by rwa [hkey, ← F32.key_zero]⟩
  rw [voltToPercent_between hge hlt, percentFormula_of_isZero hpos hfin hv]

end LegalSupply

/-- Settles O32: a percentage that is no NaN is legal, and a legal supply makes none of a voltage that is none. -/
theorem dutyPercentagesAreBounded : Obligations.DutyPercentagesAreBounded := fun v supply hfin hpos hn =>
  ⟨voltToPercent_legal v supply (voltToPercent_not_isNaN hpos hfin hn), voltToPercent_of_isZero hpos hfin⟩

/-- Settles O33: one lemma per part, and a NaN goes through the formula. -/
theorem dutyClampsAreExact : Obligations.DutyClampsAreExact := fun v supply _ hpos =>
  ⟨fun hneg => voltToPercent_of_neg hneg supply, voltToPercent_of_ge_supply hpos, voltToPercent_isNaN v supply,
    voltToPercent_between⟩

/-! ### Every offered duty is legal (42_transform_pwm.md R148, 60_exceptions.md R243) -/

/-- The duty writes among the port accesses logged offer legal percentages. -/
def OffersLegal (s : State) : Prop := ∀ ch p, PortAccess.pwm ch p ∈ s.env.portLog → dutyLegal p

/-- A commit writes each phase's own percentage. -/
theorem eq_get_of_mem_commitAccesses {d : Duty} {ch : Phase} {p : B32} (h : .pwm ch p ∈ commitAccesses d) :
    p = d.get ch := by
  simp only [commitAccesses, List.mem_cons, PortAccess.pwm.injEq, List.not_mem_nil, or_false] at h
  obtain ⟨rfl, rfl⟩ | ⟨rfl, rfl⟩ | ⟨rfl, rfl⟩ := h <;> rfl

theorem OffersLegal.of_log_nil {s : State} (h : s.env.portLog = []) : OffersLegal s :=
  fun _ _ hmem => by simp [h] at hmem

/-! A lemma named after an operation says that the operation keeps OffersLegal. -/

namespace OffersLegal
variable {s : State}

/-- A property of the log alone. -/
theorem of_log_eq (hs : OffersLegal s) {t : State} (h : t.env.portLog = s.env.portLog) : OffersLegal t :=
  fun ch p hmem => hs ch p (h ▸ hmem)

theorem logged (hs : OffersLegal s) {l : List PortAccess} (hl : ∀ ch p, .pwm ch p ∉ l) :
    OffersLegal { s with env := s.env.logged l } := by
  intro ch p hmem
  exact hs ch p ((List.mem_append.1 hmem).resolve_right (hl ch p))

theorem askClock (hs : OffersLegal s) : OffersLegal (logPort .clock s) := hs.logged (l := [.clock]) (by simp)

theorem askSensor (hs : OffersLegal s) : OffersLegal (logPort .sensor s) := hs.logged (l := [.sensor]) (by simp)

/-- DRIVE writes duties only when none of the three is a NaN, which makes them legal. -/
theorem drive (hs : OffersLegal s) (q d th : B32) : OffersLegal (drive q d th s).state := by
  intro ch p hmem
  rw [drive_log, List.mem_append] at hmem
  obtain hold | hnew := hmem
  · exact hs ch p hold
  · cases hn : (dutiesFor q d th s).anyNaN with
    | true => simp [hn] at hnew
    | false =>
      simp only [hn, Bool.false_eq_true, if_false] at hnew
      rw [eq_get_of_mem_commitAccesses (List.mem_of_mem_take hnew)]
      exact dutyLegal_of_not_anyNaN q d th s hn ch

theorem recorded (hs : OffersLegal s) (a : B32) : OffersLegal (recorded a s) :=
  (hs.logged (l := [.clock, .sensor]) (by simp)).of_log_eq rfl

theorem tickControl (hs : OffersLegal s) : OffersLegal (tickControl s) := by
  obtain ⟨-, e⟩ | e | ⟨q, d, th, v, a, e⟩ := tickControl_outcome s <;> rw [e]
  · exact hs.of_log_eq rfl
  · exact hs.of_log_eq (by simp)
  · exact (hs.of_log_eq (by simp)).drive q d th

theorem tick (hs : OffersLegal s) : OffersLegal (tick s) := by
  obtain ⟨e, l, h, hl⟩ | ⟨a, -, h⟩ := tick_cases s <;> rw [h]
  · have hasked : ∀ ch p, PortAccess.pwm ch p ∉ l := by
      obtain rfl | rfl | rfl := hl <;> simp
    exact (hs.logged hasked).of_log_eq rfl
  · rw [record_eq_recorded]
    exact (hs.recorded a).tickControl

theorem olTick (hs : OffersLegal s) : OffersLegal (olTick s) := by
  unfold Machine.olTick
  split
  · unfold olClock
    split
    · exact hs.askClock.of_log_eq rfl
    · exact (hs.askClock.of_log_eq (t := olIntegrate _ (logPort .clock s)) rfl).drive _ _ _
  · exact hs.of_log_eq rfl

/-- The forcing pulse of ALIGN is one DRIVE; entering the dwell accesses no port (45_align.md R203). -/
theorem alignPulse (hs : OffersLegal s) : OffersLegal (alignPulse s) := by
  obtain ⟨q, d, th, ⟨e, -⟩ | e⟩ := alignPulse_outcome s <;> rw [e]
  · exact (hs.drive q d th).of_log_eq rfl
  · exact hs.drive q d th

theorem alignPhase1 (hs : OffersLegal s) : OffersLegal (alignPhase1 s) := by
  unfold Machine.alignPhase1
  split
  · unfold alignClock
    split
    · exact hs.askClock.of_log_eq rfl
    · unfold alignSensor
      split
      · exact hs.askClock.askSensor.of_log_eq rfl
      · exact (hs.askClock.askSensor.of_log_eq (t := record _ _ (logPort .sensor (logPort .clock s))) rfl).alignPulse
  · exact hs.of_log_eq rfl

/-- Phase 2 of ALIGN asks the clock and the sensor and drives nothing (45_align.md R205). -/
theorem alignPhase2 (hs : OffersLegal s) : OffersLegal (alignPhase2 s) := by
  have hasked : OffersLegal (phase2Start s) :=
    (hs.askClock.of_log_eq (t := leaveDwell (logPort .clock s)) rfl).askSensor
  obtain ⟨e, h⟩ | ⟨a, -, h | ⟨off, h⟩⟩ := alignPhase2_outcome s <;> rw [h] <;> exact hasked.of_log_eq rfl

theorem exec (hs : OffersLegal s) {i : Instr} {t : State} (h : exec i s = .next t) : OffersLegal t := by
  cases i <;> obtain rfl := Host.Outcome.next.inj h
  case tick => exact hs.tick
  case olTick => exact hs.olTick
  case align => exact hs.alignPhase1
  all_goals exact hs.of_log_eq rfl

theorem blockStep (hs : OffersLegal s) {t : State} (h : blockStep s = .next t) : OffersLegal t := by
  obtain ⟨-, -, e⟩ | ⟨w, -, -, e⟩ | e := blockStep_outcome s <;> rw [e] at h
  · exact Host.Outcome.next.inj h ▸ hs.alignPhase2
  · have htaken : OffersLegal (takePending s) := hs.of_log_eq rfl
    unfold runWord at h
    split at h
    next => exact Host.Outcome.next.inj h ▸ htaken.of_log_eq rfl
    next => exact htaken.exec h
  · exact Host.Outcome.next.inj h ▸ hs

end OffersLegal

/-- Settles O55: every step begins with an empty port log, and what a block step adds to it is legal. -/
theorem everyOfferedDutyIsLegal : Obligations.EveryOfferedDutyIsLegal := by
  intro s t h
  show OffersLegal t
  obtain ⟨-, e⟩ | ⟨a, rest, -, e⟩ | ⟨p, rest, -, e⟩ | ⟨rest, -, e⟩ := step_cases s <;> rw [e] at h
  · exact Host.Outcome.next.inj h ▸ .of_log_nil rfl
  · exact .of_log_nil (hostAccess_portLog h)
  · have hempty : OffersLegal (setPorts p (beginStep rest s)) := .of_log_nil rfl
    exact hempty.blockStep h
  · exact Host.Outcome.next.inj h ▸ .of_log_nil rfl

/-! ### The voltage law (42_transform_pwm.md R141 to R143) -/

section NoMotorParameter
variable {s : State} (hopt : s.motor.opt = 0#3)
include hopt

/-- Without motor parameters q is the target plus a zero back-EMF, clamped. -/
theorem qVoltage_of_opt_zero (tq : B32) :
    qVoltage tq s = F32.clamp (F32.add tq Config.zero) (F32.neg s.motor.voltLimit) s.motor.voltLimit := by
  simp [qVoltage, limitVoltage, bemf, Motor.rEn, Motor.kvEn, hopt]

theorem dVoltage_of_opt_zero (tq : B32) : dVoltage tq s = Config.zero := by
  simp [dVoltage, Motor.lEn, hopt]

end NoMotorParameter

/-- Settles O30: the model's named terms, written out, are the law; the examples are computed from it. -/
theorem scenarioD : Obligations.ScenarioD := by
  refine ⟨fun _ _ => ⟨rfl, rfl⟩, by decide,
    fun tq s hopt => ⟨qVoltage_of_opt_zero hopt tq, dVoltage_of_opt_zero hopt tq⟩, fun s hopt hlimit => ?_⟩
  rw [qVoltage_of_opt_zero hopt, qVoltage_of_opt_zero hopt, hlimit]
  decide

/-! ### The duties of a drive (42_transform_pwm.md R144 to R147, R150) -/

/-! R150's example, stage by stage: sine 0, cosine 1, supply 12; `_driven` at q = 2, `_atRest` at q = 0. -/

theorem phaseVoltages_driven :
    phaseVoltages 0#32 0x3F800000#32 0x40000000#32 0#32 0x41400000#32 =
      (0x40C00000#32, 0x40F76CF6#32, 0x4088930A#32) := by
  have halpha : parkAlpha 0#32 0x3F800000#32 0x40000000#32 0#32 = 0#32 := by decide
  have hbeta : parkBeta 0#32 0x3F800000#32 0x40000000#32 0#32 = 0x40000000#32 := by decide
  have hb : clarkeB 0#32 0x40000000#32 = 0x3FDDB3D7#32 := by decide
  have hc : clarkeC 0#32 0x40000000#32 = 0xBFDDB3D7#32 := by decide
  have hshift : centerShift 0#32 0x3FDDB3D7#32 0xBFDDB3D7#32 0x41400000#32 = 0x40C00000#32 := by decide
  simp only [phaseVoltages, halpha, hbeta, hb, hc, hshift]
  decide

theorem phaseVoltages_atRest :
    phaseVoltages 0#32 0x3F800000#32 0#32 0#32 0x41400000#32 = (0x40C00000#32, 0x40C00000#32, 0x40C00000#32) := by
  have halpha : parkAlpha 0#32 0x3F800000#32 0#32 0#32 = 0#32 := by decide
  have hbeta : parkBeta 0#32 0x3F800000#32 0#32 0#32 = 0#32 := by decide
  have hb : clarkeB 0#32 0#32 = 0#32 := by decide
  have hc : clarkeC 0#32 0#32 = 0x80000000#32 := by decide
  have hshift : centerShift 0#32 0#32 0x80000000#32 0x41400000#32 = 0x40C00000#32 := by decide
  simp only [phaseVoltages, halpha, hbeta, hb, hc, hshift]
  decide

/-- Half the supply is 50 percent. -/
theorem voltToPercent_half_supply : voltToPercent 0x40C00000#32 0x41400000#32 = 0x42480000#32 := by decide

/-- Settles O31: the model's named terms, written out, are the formulas of R144 to R147; the example is computed. -/
theorem driveWorkedExample : Obligations.DriveWorkedExample := by
  have hhalf : F32.neg Config.half = 0xBF000000#32 := by decide
  refine ⟨fun q d theta s => ?_, fun s theta hsupply hsin hcos => ?_⟩
  · simp only [dutiesFor, phaseVoltages, clarkeB, clarkeC, hhalf]
    rfl
  · have hb : voltToPercent 0x40F76CF6#32 0x41400000#32 = 0x4280DE15#32 := by decide
    have hc : voltToPercent 0x4088930A#32 0x41400000#32 = 0x420E43D5#32 := by decide
    simp only [dutiesFor, hsupply, hsin, hcos, phaseVoltages_driven, phaseVoltages_atRest, voltToPercent_half_supply,
      hb, hc, and_self]

end Sys2Proof.Machine

/-! SUPPORT. Proofs of the statements about the commands (43_commands.md): NOP and the mode commands, the configuration
check, and the block step of a pending word. -/

namespace Sys2Proof.Machine

/-! ### NOP and the mode commands (43_commands.md R162, R164 to R168) -/

/-- A command word is its immediate, shifted to IMM16, over its opcode (30_encoding.md R80, R90). -/
theorem encode_eq_or (i : Instr) : encode i = (i.imm.setWidth 32 <<< 16) ||| i.opcode.setWidth 32 := by
  have himm : (i.imm.setWidth 32 <<< 16).toNat = i.imm.toNat <<< 16 := by
    simp [Nat.shiftLeft_eq]
    omega
  have hop : i.opcode.toNat < 2 ^ 16 := by omega
  apply BitVec.eq_of_toNat_eq
  rw [encode_toNat, BitVec.toNat_or, himm, BitVec.toNat_setWidth_of_le (by decide),
    ← Nat.shiftLeft_add_eq_or_of_lt hop, Nat.shiftLeft_eq]

/-- Settles O15: NOP is the shared completion and nothing more. -/
theorem nopClearsTheResult : Obligations.NopClearsTheResult :=
  ⟨encode_eq_or .nop, fun _ => rfl⟩

/-- Settles O16: each of the four is its record updates, completed. -/
theorem modeCommandsTakeTheirArguments : Obligations.ModeCommandsTakeTheirArguments :=
  ⟨⟨encode_eq_or .modeVelocity, encode_eq_or .modeAngle, encode_eq_or .modeTorque, encode_eq_or .modeLimitPos⟩,
    fun _ => ⟨rfl, rfl, rfl, rfl⟩⟩

/-- Settles O17: MODE_RATCHET is the geometry, the mode with its zero target and the gains, completed; its word holds
the step count as the immediate. -/
theorem ratchetSelectsGeometryAndGains : Obligations.RatchetSelectsGeometryAndGains :=
  fun n _ => ⟨encode_eq_or (.modeRatchet n), rfl⟩

/-! ### The configuration check (43_commands.md R161) -/

/-- No comparison holds of a NaN, so `>= +0.0` says that its operand is none (00_scope.md R12). -/
theorem nonNegative_eq_ge (x : B32) : nonNegative x = F32.ge x Config.zero := by
  cases hn : F32.isNaN x <;> simp [nonNegative, F32.ge, hn]

theorem Pid.cfgOk_iff (p : Pid) : p.cfgOk = true ↔
    (p.opt.getLsbD 0 = true → F32.ge p.limit Config.zero = true) ∧
      (p.opt.getLsbD 1 = true → F32.ge p.ramp Config.zero = true) := by
  simp only [Pid.cfgOk, Pid.limitEn, Pid.rampEn, nonNegative_eq_ge, Bool.and_eq_true, Bool.or_eq_true,
    Bool.not_eq_true', imp_iff_not_or, Bool.not_eq_true]

theorem cfgOk_iff (s : State) : cfgOk s = true ↔
    F32.isFinite s.motor.supplyV = true ∧ F32.gt s.motor.supplyV Config.zero = true ∧
      F32.ge s.motor.voltLimit Config.zero = true ∧ F32.ge s.motor.velLimit Config.zero = true ∧
      ∀ p ∈ [s.vpid, s.apid], p.cfgOk = true := by
  simp only [cfgOk, nonNegative_eq_ge, Bool.and_eq_true, and_assoc, List.forall_mem_cons, List.not_mem_nil,
    false_imp_iff, implies_true, and_true]

/-- A command refused before it asks a port writes its code alone. -/
theorem raise_eq_endedWith_nil (e : Err) (s : State) : raise e s = endedWith e .a [] s := by
  simp [raise, setResult, endedWith, Env.logged]

section NotConfigured
variable {s : State}

theorem tick_of_not_cfgOk (h : cfgOk s = false) : tick s = endedWith .config .a [] s := by
  rw [← raise_eq_endedWith_nil]
  simp [tick, h]

theorem olTick_of_not_cfgOk (h : cfgOk s = false) : olTick s = endedWith .config .a [] s := by
  rw [← raise_eq_endedWith_nil]
  simp [olTick, h]

theorem alignPhase1_of_not_cfgOk (h : cfgOk s = false) : alignPhase1 s = endedWith .config .a [] s := by
  rw [← raise_eq_endedWith_nil]
  simp [alignPhase1, h]

end NotConfigured

/-- Settles O18: CFG_OK is `cfgOk_iff` with each PID's part written out; the check comes before every port access. -/
theorem configurationCheck : Obligations.ConfigurationCheck := by
  intro s
  refine ⟨?_, fun h => ⟨congrArg _ (tick_of_not_cfgOk h), congrArg _ (olTick_of_not_cfgOk h),
    congrArg _ (alignPhase1_of_not_cfgOk h)⟩⟩
  simp only [cfgOk_iff, Pid.cfgOk_iff]
  exact Iff.rfl

/-! ### The block step of a pending word (43_commands.md R160) -/

theorem runWord_of_decode {w : Word} {i : Instr} (h : decode w = .ok i) (s : State) : runWord w s = exec i s := by
  simp only [runWord, h]

theorem runWord_of_illegal {w : Word} {e : DecodeError} (h : decode w = .error e) (s : State) :
    runWord w s = .next (raise .illegal s) := by
  simp only [runWord, h, completeIllegal]

/-- The word is taken out of PENDING before it runs. -/
theorem step_pending {p : Ports} {rest : List Event} {w : Word} {s : State} (hev : s.env.agenda = .block p :: rest)
    (hidle : s.align.phase = .idle) (hw : s.pending = some w) :
    step s = runWord w (takePending (atBlockStep p rest s)) :=
  (step_block hev).trans (blockStep_pending _ w hidle hw)

/-- Settles O52: the step runs the pending word, and that word decodes to the command. -/
theorem stepRunsTheDecodedCommand : Obligations.StepRunsTheDecodedCommand :=
  fun _ _ _ _ _ hev hidle hw hi => (step_pending hev hidle hw).trans (runWord_of_decode hi _)

/-! ### What the commands leave of BUSY (10_state.md R25) -/

theorem busy_eq_false_iff (s : State) : busy s = false ↔ s.pending = none ∧ s.align.phase = .idle := by
  cases hp : s.align.phase <;> simp [busy, hp]

/-- What BUSY is read off stands in `t` as in `s`. -/
def KeepsBusy (s t : State) : Prop := t.pending = s.pending ∧ t.align = s.align

theorem KeepsBusy.busy_eq {s t : State} (h : KeepsBusy s t) : busy t = busy s := by
  obtain ⟨hpending, halign⟩ := h
  rw [busy, hpending, halign, busy]

@[simp] theorem aimed_pending (s : State) : (aimed s).pending = s.pending := by
  unfold aimed
  split <;> simp

@[simp] theorem aimed_align (s : State) : (aimed s).align = s.align := by
  unfold aimed
  split <;> simp

theorem drive_keepsBusy {s t : State} (q d th : B32) (h : KeepsBusy s t) : KeepsBusy s (drive q d th t).state := by
  obtain ⟨st, en, du, e, -⟩ := drive_keeps q d th t
  rw [e]
  exact h

theorem tick_keepsBusy (s : State) : KeepsBusy s (tick s) := by
  obtain ⟨e, l, h, -⟩ | ⟨a, -, h⟩ := tick_cases s <;> rw [h]
  · exact ⟨rfl, rfl⟩
  · rw [record_eq_recorded]
    obtain ⟨-, e⟩ | e | ⟨q, d, th, v, p, e⟩ := tickControl_outcome (recorded a s) <;> rw [e]
    · exact ⟨rfl, rfl⟩
    · exact ⟨by simp [recorded], by simp [recorded]⟩
    · exact drive_keepsBusy q d th ⟨by simp [recorded], by simp [recorded]⟩

theorem olTick_keepsBusy (s : State) : KeepsBusy s (olTick s) := by
  obtain ⟨e, l, h⟩ | h := olTick_outcome s <;> rw [h]
  · exact ⟨rfl, rfl⟩
  · exact drive_keepsBusy _ _ _ ⟨by simp, by simp⟩

/-- Phase 1 of ALIGN may enter the dwell; it makes nothing pending (45_align.md R203). -/
theorem alignPhase1_pending (s : State) : (alignPhase1 s).pending = s.pending := by
  obtain ⟨e, l, h⟩ | ⟨a, -, h⟩ := alignPhase1_outcome s <;> rw [h]
  · rfl
  · obtain ⟨q, d, th, ⟨e, -⟩ | e⟩ := alignPulse_outcome (recorded a s) <;> rw [e]
    all_goals exact (drive_keepsBusy (s := s) (t := recorded a s) q d th ⟨rfl, rfl⟩).1

/-- Every command but ALIGN ends in its one block step. -/
theorem exec_not_busy {i : Instr} {s t : State} (hi : i ≠ .align) (hs : busy s = false) (h : exec i s = .next t) :
    busy t = false := by
  cases i <;> obtain rfl := Host.Outcome.next.inj h
  case align => exact absurd rfl hi
  case tick => exact (tick_keepsBusy s).busy_eq.trans hs
  case olTick => exact (olTick_keepsBusy s).busy_eq.trans hs
  case sreset => rfl
  all_goals exact hs

/-- Every command answers a next state. -/
theorem exists_exec_eq_next (i : Instr) (s : State) : ∃ t, exec i s = .next t := by
  cases i <;> exact ⟨_, rfl⟩

/-- What a word's block step leaves: nothing pending, and BUSY only for ALIGN (70_reset_and_hazards.md R275). -/
theorem runWord_outcome (w : Word) {s : State} (hs : busy s = false) :
    ∃ t, runWord w s = .next t ∧ t.pending = none ∧ (busy t = true → decode w = .ok .align) := by
  cases hd : decode w with
  | error e =>
    have hidle : busy (raise .illegal s) = false := hs
    exact ⟨_, runWord_of_illegal hd s, ((busy_eq_false_iff s).1 hs).1, fun hb => by simp [hidle] at hb⟩
  | ok i =>
    obtain ⟨t, ht⟩ := exists_exec_eq_next i s
    refine ⟨t, (runWord_of_decode hd s).trans ht, ?_⟩
    by_cases hi : i = .align
    · subst hi
      obtain rfl := Host.Outcome.next.inj ht
      exact ⟨(alignPhase1_pending s).trans ((busy_eq_false_iff s).1 hs).1, fun _ => rfl⟩
    · have hidle : busy t = false := exec_not_busy hi hs ht
      exact ⟨((busy_eq_false_iff t).1 hidle).1, fun hb => by simp [hidle] at hb⟩

/-- Settles O53: the word is taken out of PENDING with no ALIGN in its dwell, so it runs with BUSY = 0. -/
theorem busyFallsAtTheFirstBlockStep : Obligations.BusyFallsAtTheFirstBlockStep := by
  intro p rest w s hev hidle hw
  rw [step_pending hev hidle hw]
  exact runWord_outcome w ((busy_eq_false_iff _).2 ⟨rfl, hidle⟩)

end Sys2Proof.Machine

/-! SUPPORT. Proofs of the statements about TICK (44_tick.md): the refusals of its checks, the dead-band and LimitPos
endings, how its DRIVE ends in the modes that drive, and what every TICK leaves as it was. -/

namespace Sys2Proof.Machine

/-! ### The refusals of steps 2 to 5 (44_tick.md R180, R192) -/

section Configured
variable {s : State}

theorem tick_of_clock_lt (hc : cfgOk s = true) (hlt : s.env.ports.clock < s.sensor.t) :
    tick s = endedWith .clock .a [.clock] s := by
  simp [tick, hc, tickClock, hlt, raise, setResult, logPort, endedWith, Env.logged]

theorem tick_of_clock_eq (hc : cfgOk s = true) (heq : s.env.ports.clock = s.sensor.t) :
    tick s = endedWith .dtZero .a [.clock] s := by
  simp [tick, hc, tickClock, heq, raise, setResult, logPort, endedWith, Env.logged]

/-- Both refusals of step 5 end alike, each with the code the sensor read answers. -/
theorem tick_of_readSensor_error {e : Err} (hc : cfgOk s = true) (hlt : s.sensor.t < s.env.ports.clock)
    (he : readSensor s.env.ports = .error e) : tick s = endedWith e .a [.clock, .sensor] s := by
  have hnotlt : ¬ s.env.ports.clock < s.sensor.t := by bv_omega
  have hne : s.env.ports.clock ≠ s.sensor.t := by bv_omega
  simp [tick, hc, tickClock, hnotlt, hne, tickSensor, he, raise, setResult, logPort, endedWith, Env.logged]

end Configured

/-- Settles O19: one lemma per refused check, in the order of the checks. -/
theorem refusedTickWritesOnlyTheResult : Obligations.RefusedTickWritesOnlyTheResult := by
  intro s
  refine ⟨fun hcfg => congrArg _ (tick_of_not_cfgOk hcfg), fun hcfg =>
    ⟨fun hlt => congrArg _ (tick_of_clock_lt hcfg hlt), fun heq => congrArg _ (tick_of_clock_eq hcfg heq),
      fun hlt => ⟨fun herr => ?_, fun a hok hout => ?_⟩⟩⟩
  · exact congrArg _ (tick_of_readSensor_error hcfg hlt ((readSensor_error _ _).2 (.inl ⟨herr, rfl⟩)))
  · exact congrArg _ (tick_of_readSensor_error hcfg hlt ((readSensor_error _ _).2 (.inr ⟨a, hok, hout, rfl⟩)))

/-! ### The endings before the DRIVE (44_tick.md R184, R187, R188) -/

section Admitted
variable {a : B32} {s : State}

theorem exec_tick_limitPos (h : TickAdmits a s) (hm : s.motion.mode = .limitPos) :
    exec .tick s = .next (fatal .unimplMode (recorded a s)) := by
  have hmode : (recorded a s).motion.mode = .limitPos := hm
  refine (execTick_admitted a s h).trans ?_
  simp only [tickControl, modeStep, hmode, limitPosStep]

theorem exec_tick_angle_deadband (h : TickAdmits a s) (hm : s.motion.mode = .angle)
    (hd : withinDeadband Config.deadbandAngle (recorded a s) = true) :
    exec .tick s = .next (deadbandNoOp (recorded a s)) := by
  have hmode : (recorded a s).motion.mode = .angle := hm
  refine (execTick_admitted a s h).trans ?_
  simp only [tickControl, modeStep, hmode, angleStep, hd, if_true]

theorem exec_tick_ratchet_deadband (h : TickAdmits a s) (hm : s.motion.mode = .ratchet)
    (hd : withinDeadband Config.deadbandRatchet (retarget (recorded a s)) = true) :
    exec .tick s = .next (deadbandNoOp (retarget (recorded a s))) := by
  have hmode : (recorded a s).motion.mode = .ratchet := hm
  refine (execTick_admitted a s h).trans ?_
  simp only [tickControl, modeStep, hmode, ratchetStep, hd, if_true]

end Admitted

/-- Settles O37: inside the dead-band the command ends with the no-op on the record. -/
theorem angleDeadbandTickChangesOnlyTheRecord : Obligations.AngleDeadbandTickChangesOnlyTheRecord :=
  fun _ _ hadm hm hd => exec_tick_angle_deadband hadm hm hd

theorem withinDeadband_retarget (bound : B32) (t : State) : withinDeadband bound (retarget t) =
    F32.lt (F32.abs (F32.sub (detent t.sensor.cont t.motion.rRps) t.sensor.cont)) bound := by
  simp only [withinDeadband, retarget]

theorem deadbandNoOp_retarget (t : State) : deadbandNoOp (retarget t) =
    { t with
      motion := { t.motion with target := detent t.sensor.cont t.motion.rRps }
      status := { t.status with deadband := true, err := .ok, errCh := .a } } := by
  simp only [deadbandNoOp, complete, setResult, setDeadband, retarget]

/-- Settles O39: inside the dead-band the command ends with the no-op on the record with its new target. -/
theorem ratchetDeadbandTickMovesTheTarget : Obligations.RatchetDeadbandTickMovesTheTarget := by
  intro a s hadm hm n target hd
  have hwithin := (withinDeadband_retarget Config.deadbandRatchet (recorded a s)).trans hd
  rw [exec_tick_ratchet_deadband hadm hm hwithin, deadbandNoOp_retarget]
  rfl

/-- Settles O40: LIMITPOS_STEP is fatal on the record. -/
theorem limitPosTickIsFatal : Obligations.LimitPosTickIsFatal :=
  fun _ _ hadm hm => exec_tick_limitPos hadm hm

/-! ### The three ways the DRIVE of a TICK ends (42_transform_pwm.md R148 to R150; 44_tick.md R190, R191) -/

section Reached
variable {a tq : B32} {s r : State}

/-- No mode touches the answers of the ports on the way to the DRIVE. -/
theorem TickReachesDrive.ports_eq (h : TickReachesDrive a s tq r) : r.env.ports = s.env.ports := by
  obtain ⟨-, h⟩ := h
  cases hm : s.motion.mode <;> simp only [hm] at h
  case torque | velocity =>
    obtain ⟨-, rfl⟩ := h
    rfl
  case angle | ratchet =>
    obtain ⟨-, -, rfl⟩ := h
    rfl

theorem TickReachesDrive.exec_eq_next_of_accepted (h : TickReachesDrive a s tq r) (hall : AllPortsAccept s)
    (hn : (dutiesFor (qVoltage tq r) (dVoltage tq r) (electricalAngle r) r).anyNaN = false) :
    exec .tick s = .next (afterDrive (qVoltage tq r) (dVoltage tq r) (electricalAngle r)
      (dutiesFor (qVoltage tq r) (dVoltage tq r) (electricalAngle r) r) r) := by
  have hallr : AllPortsAccept r := by
    rwa [AllPortsAccept, h.ports_eq]
  refine (execTick_reachesDrive a tq s r h).trans ?_
  rw [drive_accepted _ _ _ _ hn hallr, Flow.state_go]

theorem TickReachesDrive.exec_eq_next_of_refused {ch : Phase} (h : TickReachesDrive a s tq r)
    (hn : (dutiesFor (qVoltage tq r) (dVoltage tq r) (electricalAngle r) r).anyNaN = false)
    (hr : s.env.ports.firstRefused = some ch) :
    exec .tick s = .next (afterRefusal (qVoltage tq r) (dVoltage tq r) (electricalAngle r)
      (dutiesFor (qVoltage tq r) (dVoltage tq r) (electricalAngle r) r) r ch) := by
  refine (execTick_reachesDrive a tq s r h).trans ?_
  rw [drive_refused _ _ _ _ ch hn (h.ports_eq ▸ hr), Flow.state_ended]

theorem TickReachesDrive.exec_eq_next_of_anyNaN (h : TickReachesDrive a s tq r)
    (hn : (dutiesFor (qVoltage tq r) (dVoltage tq r) (electricalAngle r) r).anyNaN = true) :
    exec .tick s = .next (afterNumeric (qVoltage tq r) (dVoltage tq r) (electricalAngle r) r) := by
  refine (execTick_reachesDrive a tq s r h).trans ?_
  rw [drive_numeric _ _ _ _ hn]
  rfl

end Reached

/-- Settles O41: the DRIVE ends at the first refused phase. -/
theorem refusedDutyKeepsEarlierPhases : Obligations.RefusedDutyKeepsEarlierPhases :=
  fun _ _ _ _ _ hreach hn hr => hreach.exec_eq_next_of_refused hn hr

/-- Settles O42: the DRIVE ends before any port. -/
theorem nanDutyEndsInNumeric : Obligations.NanDutyEndsInNumeric :=
  fun _ _ _ _ hreach hn => hreach.exec_eq_next_of_anyNaN hn

/-! ### The modes that drive, let through (44_tick.md R182, R183, R185 to R187) -/

/-- Settles O34: the target itself reaches the DRIVE. -/
theorem torqueTickCompletes : Obligations.TorqueTickCompletes := by
  intro a s hadm hm hall r q d p hn
  have hreach : TickReachesDrive a s s.motion.target r := ⟨hadm, by nth_rw 1 [hm]; exact ⟨rfl, rfl⟩⟩
  exact hreach.exec_eq_next_of_accepted hall hn

/-- Settles O35: VPID's output reaches the DRIVE. -/
theorem velocityTickCompletes : Obligations.VelocityTickCompletes := by
  intro a s hadm hm hall dt vel tq r q d p hn
  have hreach : TickReachesDrive a s tq r := ⟨hadm, by nth_rw 1 [hm]; exact ⟨rfl, rfl⟩⟩
  exact hreach.exec_eq_next_of_accepted hall hn

/-- Settles O36: the output of the cascade reaches the DRIVE. -/
theorem angleTickCompletes : Obligations.AngleTickCompletes := by
  intro a s hadm hm hall n hd dt vsp tq r q d p hn
  have hreach : TickReachesDrive a s tq r := ⟨hadm, by nth_rw 1 [hm]; exact ⟨hd, rfl, rfl⟩⟩
  exact hreach.exec_eq_next_of_accepted hall hn

/-- Settles O38: the output of the cascade with the clamped setpoint reaches the DRIVE. -/
theorem ratchetTickCompletes : Obligations.RatchetTickCompletes := by
  intro a s hadm hm hall n target hd dt vsp tq r q d p hn
  have hreach : TickReachesDrive a s tq r := ⟨hadm, by nth_rw 1 [hm]; exact ⟨hd, rfl, rfl⟩⟩
  exact hreach.exec_eq_next_of_accepted hall hn

/-! ### What every TICK leaves as it was (44_tick.md R193, 41_pid.md R124) -/

/-- An admitted TICK ends fatally in LimitPos mode or in its dead-band, or reaches its DRIVE. -/
theorem exec_tick_admitted_cases {a : B32} {s : State} (h : TickAdmits a s) :
    exec .tick s = .next (fatal .unimplMode (recorded a s)) ∨
    exec .tick s = .next (deadbandNoOp (recorded a s)) ∨
    (s.motion.mode = .ratchet ∧ exec .tick s = .next (deadbandNoOp (retarget (recorded a s)))) ∨
    ∃ tq r, TickReachesDrive a s tq r := by
  cases hm : s.motion.mode with
  | limitPos => exact .inl (exec_tick_limitPos h hm)
  | torque => exact .inr (.inr (.inr ⟨_, _, h, by nth_rw 1 [hm]; exact ⟨rfl, rfl⟩⟩))
  | velocity => exact .inr (.inr (.inr ⟨_, _, h, by nth_rw 1 [hm]; exact ⟨rfl, rfl⟩⟩))
  | angle =>
    cases hd : withinDeadband Config.deadbandAngle (recorded a s) with
    | true => exact .inr (.inl (exec_tick_angle_deadband h hm hd))
    | false => exact .inr (.inr (.inr ⟨_, _, h, by nth_rw 1 [hm]; exact ⟨hd, rfl, rfl⟩⟩))
  | ratchet =>
    have hwithin := withinDeadband_retarget Config.deadbandRatchet (recorded a s)
    cases hd : withinDeadband Config.deadbandRatchet (retarget (recorded a s)) with
    | true => exact .inr (.inr (.inl ⟨rfl, exec_tick_ratchet_deadband h hm hd⟩))
    | false => exact .inr (.inr (.inr ⟨_, _, h, by nth_rw 1 [hm]; exact ⟨hwithin.symm.trans hd, rfl, rfl⟩⟩))

/-- What stands in `t` as in `s` when `t` is what a TICK makes of `s`. -/
structure KeepsConfiguration (s t : State) : Prop where
  args : t.args = s.args
  motor : t.motor = s.motor
  retune : t.retune = s.retune
  ol : t.ol = s.ol
  calOffset : t.calOffset = s.calOffset
  align : t.align = s.align
  pending : t.pending = s.pending
  aligned : t.status.aligned = s.status.aligned
  lastOp : t.status.lastOp = s.status.lastOp
  wdrop : t.status.wdrop = s.status.wdrop
  motion : t.motion = { s.motion with target := t.motion.target }
  target : s.motion.mode ≠ .ratchet → t.motion.target = s.motion.target
  vpid : t.vpid = { s.vpid with integ := t.vpid.integ, prevErr := t.vpid.prevErr, prevOut := t.vpid.prevOut }
  apid : t.apid = { s.apid with integ := t.apid.integ, prevErr := t.apid.prevErr, prevOut := t.apid.prevOut }

namespace KeepsConfiguration
variable {a tq : B32} {s t r : State}

theorem refl (s : State) : KeepsConfiguration s s :=
  ⟨rfl, rfl, rfl, rfl, rfl, rfl, rfl, rfl, rfl, rfl, rfl, fun _ => rfl, rfl, rfl⟩

/-- The record, with what a mode may write beside it. -/
theorem recorded_with (a : B32) {m : Motion} {v p : Pid} (hmotion : m = { s.motion with target := m.target })
    (htarget : s.motion.mode ≠ .ratchet → m.target = s.motion.target)
    (hvpid : v = { s.vpid with integ := v.integ, prevErr := v.prevErr, prevOut := v.prevOut })
    (hapid : p = { s.apid with integ := p.integ, prevErr := p.prevErr, prevOut := p.prevOut }) :
    KeepsConfiguration s { Machine.recorded a s with motion := m, vpid := v, apid := p } :=
  { refl s with motion := hmotion, target := htarget, vpid := hvpid, apid := hapid }

theorem recorded (s : State) (a : B32) : KeepsConfiguration s (Machine.recorded a s) :=
  recorded_with a rfl (fun _ => rfl) rfl rfl

theorem retarget_recorded (a : B32) (hm : s.motion.mode = .ratchet) :
    KeepsConfiguration s (Machine.retarget (Machine.recorded a s)) :=
  recorded_with a rfl (absurd hm) rfl rfl

theorem fatal (h : KeepsConfiguration s t) (e : Err) : KeepsConfiguration s (Machine.fatal e t) := { h with }

theorem deadbandNoOp (h : KeepsConfiguration s t) : KeepsConfiguration s (Machine.deadbandNoOp t) := { h with }

theorem outsideDeadband (h : KeepsConfiguration s t) : KeepsConfiguration s (Machine.outsideDeadband t) := { h with }

/-- Only Ratchet mode writes TARGET (44_tick.md R186), and a PID's computation writes none of its parameters. -/
theorem of_tickReachesDrive (h : TickReachesDrive a s tq r) : KeepsConfiguration s r := by
  obtain ⟨-, h⟩ := h
  cases hm : s.motion.mode <;> nth_rw 1 [hm] at h
  case torque =>
    obtain ⟨-, rfl⟩ := h
    exact (recorded s a).outsideDeadband
  case velocity =>
    obtain ⟨-, rfl⟩ := h
    exact (recorded_with a rfl (fun _ => rfl) rfl rfl).outsideDeadband
  case angle =>
    obtain ⟨-, -, rfl⟩ := h
    exact (recorded_with a rfl (fun _ => rfl) rfl rfl).outsideDeadband
  case ratchet =>
    obtain ⟨-, -, rfl⟩ := h
    exact (recorded_with a rfl (absurd hm) rfl rfl).outsideDeadband
  case limitPos => exact h.elim

theorem drive (h : KeepsConfiguration s r) (q d th : B32) : KeepsConfiguration s (Machine.drive q d th r).state := by
  obtain ⟨st, en, du, e, haligned, -, hlastOp, hwdrop⟩ := drive_keeps q d th r
  rw [e]
  exact { h with
    aligned := haligned.trans h.aligned
    lastOp := hlastOp.trans h.lastOp
    wdrop := hwdrop.trans h.wdrop }

end KeepsConfiguration

theorem exec_tick_keepsConfiguration (s : State) : ∃ t, exec .tick s = .next t ∧ KeepsConfiguration s t := by
  obtain ⟨e, l, h, -⟩ | ⟨a, hadm, -⟩ := tick_cases s
  · exact ⟨_, congrArg Host.Outcome.next h, { KeepsConfiguration.refl s with }⟩
  · have hrec := KeepsConfiguration.recorded s a
    obtain h | h | ⟨hm, h⟩ | ⟨tq, r, hreach⟩ := exec_tick_admitted_cases hadm
    · exact ⟨_, h, hrec.fatal _⟩
    · exact ⟨_, h, hrec.deadbandNoOp⟩
    · exact ⟨_, h, (KeepsConfiguration.retarget_recorded a hm).deadbandNoOp⟩
    · exact ⟨_, execTick_reachesDrive a tq s r hreach, (KeepsConfiguration.of_tickReachesDrive hreach).drive _ _ _⟩

/-- Settles O43: the fields of `KeepsConfiguration`, one by one. -/
theorem tickKeepsConfiguration : Obligations.TickKeepsConfiguration := by
  intro s
  obtain ⟨t, ht, h⟩ := exec_tick_keepsConfiguration s
  exact ⟨t, ht, h.args, h.motor, h.retune, h.ol, h.calOffset, h.align, h.pending, h.aligned, h.lastOp, h.wdrop,
    h.motion, h.target, h.vpid, h.apid⟩

end Sys2Proof.Machine

/-! SUPPORT. Proofs of the statements about ALIGN (45_align.md): the refusals of its phase 1, with the one of OL_TICK's
clock check beside them; how its forcing pulse ends; the dwell; the endings of phase 2; and why the aligned position
need not read as zero. -/

namespace Sys2Proof.Machine

/-! ### The refusals of phase 1 and of OL_TICK (45_align.md R201, R208; 46_openloop.md R221) -/

section Configured
variable {s : State}

theorem olTick_of_clock_lt (hc : cfgOk s = true) (hlt : s.env.ports.clock < s.ol.t) :
    olTick s = endedWith .clock .a [.clock] s := by
  simp [olTick, hc, olClock, hlt, raise, setResult, logPort, endedWith, Env.logged]

theorem alignPhase1_of_clock_lt (hc : cfgOk s = true) (hlt : s.env.ports.clock < s.sensor.t) :
    alignPhase1 s = endedWith .clock .a [.clock] s := by
  simp [alignPhase1, hc, alignClock, hlt, raise, setResult, logPort, endedWith, Env.logged]

/-- Both refusals of the sensor read end alike, each with the code the read answers. -/
theorem alignPhase1_of_readSensor_error {e : Err} (hc : cfgOk s = true) (hle : s.sensor.t ≤ s.env.ports.clock)
    (he : readSensor s.env.ports = .error e) : alignPhase1 s = endedWith e .a [.clock, .sensor] s := by
  have hnotlt : ¬ s.env.ports.clock < s.sensor.t := BitVec.not_lt.2 hle
  simp [alignPhase1, hc, alignClock, hnotlt, alignSensor, he, raise, setResult, logPort, endedWith, Env.logged]

end Configured

theorem readSensor_of_err {p : Ports} (h : p.sensor = .err) : readSensor p = .error .sensor :=
  (readSensor_error _ _).2 (.inl ⟨h, rfl⟩)

theorem readSensor_of_not_inRange {p : Ports} {a : B32} (h : p.sensor = .ok a) (hout : inRange a = false) :
    readSensor p = .error .sensorRange :=
  (readSensor_error _ _).2 (.inr ⟨a, h, hout, rfl⟩)

/-- Settles O20: one lemma per refused check, in the order of the checks. -/
theorem refusedAlignAndOlTickWriteOnlyTheResult : Obligations.RefusedAlignAndOlTickWriteOnlyTheResult :=
  fun _ hcfg =>
    ⟨fun hlt => congrArg _ (olTick_of_clock_lt hcfg hlt),
      fun hlt => congrArg _ (alignPhase1_of_clock_lt hcfg hlt),
      fun hle =>
        ⟨fun herr => congrArg _ (alignPhase1_of_readSensor_error hcfg hle (readSensor_of_err herr)),
          fun _ hok hout =>
            congrArg _ (alignPhase1_of_readSensor_error hcfg hle (readSensor_of_not_inRange hok hout))⟩⟩

/-! ### The three ways the forcing pulse ends (45_align.md R203, R208) -/

/-- The q voltage of the forcing pulse: half the supply. -/
def pulseVoltage (s : State) : B32 := F32.mul s.motor.supplyV Config.half

/-- The percentages the forcing pulse offers. -/
def pulseDuties (s : State) : Duty := dutiesFor (pulseVoltage s) Config.zero s.motor.alignAngle s

section Pulse
variable {s : State}

theorem alignPulse_of_drive_go {t : State}
    (h : drive (pulseVoltage s) Config.zero s.motor.alignAngle s = .go t) :
    alignPulse s = enterDwell s.env.ports.clock (rawElectricalAngle s.sensor.angle s) t := by
  unfold pulseVoltage at h
  unfold alignPulse
  rw [h]

theorem alignPulse_of_drive_ended {t : State}
    (h : drive (pulseVoltage s) Config.zero s.motor.alignAngle s = .ended t) : alignPulse s = t := by
  unfold pulseVoltage at h
  unfold alignPulse
  rw [h]

theorem alignPulse_of_accepted (hn : (pulseDuties s).anyNaN = false) (hall : AllPortsAccept s) :
    alignPulse s = enterDwell s.env.ports.clock (rawElectricalAngle s.sensor.angle s)
      (afterDrive (pulseVoltage s) Config.zero s.motor.alignAngle (pulseDuties s) s) :=
  alignPulse_of_drive_go (drive_accepted _ _ _ _ hn hall)

theorem alignPulse_of_anyNaN (hn : (pulseDuties s).anyNaN = true) :
    alignPulse s = afterNumeric (pulseVoltage s) Config.zero s.motor.alignAngle s :=
  alignPulse_of_drive_ended (drive_numeric _ _ _ _ hn)

theorem alignPulse_of_refused {ch : Phase} (hn : (pulseDuties s).anyNaN = false)
    (hr : s.env.ports.firstRefused = some ch) :
    alignPulse s = afterRefusal (pulseVoltage s) Config.zero s.motor.alignAngle (pulseDuties s) s ch :=
  alignPulse_of_drive_ended (drive_refused _ _ _ _ ch hn hr)

end Pulse

theorem exec_align_admitted {a : B32} {s : State} (h : AlignAdmits a s) :
    exec .align s = .next (alignPulse (recorded a s)) := execAlign_admitted a s h

/-- Settles O46: the pulse on the record commits, and the dwell is entered. -/
theorem alignPulseEntersTheDwell : Obligations.AlignPulseEntersTheDwell := by
  intro a s hadm hall r q p hn
  have hpulse := alignPulse_of_accepted (s := recorded a s) hn hall
  rw [exec_align_admitted hadm, hpulse]
  rfl

/-- Settles O47: the pulse on the record ends before any port, or at the first refused one. -/
theorem failedPulseEntersNoDwell : Obligations.FailedPulseEntersNoDwell := by
  intro a s hadm r q p
  rw [exec_align_admitted hadm]
  exact ⟨fun hn => congrArg _ (alignPulse_of_anyNaN (s := recorded a s) hn),
    fun hn _ hr => congrArg _ (alignPulse_of_refused (s := recorded a s) hn hr)⟩

/-! ### The dwell (45_align.md R204) -/

theorem dwellPassed_iff (s : State) : dwellPassed s = true ↔ s.align.t0.toNat + 700000 ≤ s.env.ports.clock.toNat :=
  decide_eq_true_iff

section Dwell
variable {p : Ports} {rest : List Event} {s : State}

theorem step_dwell_early (hev : s.env.agenda = .block p :: rest) (hd : s.align.phase = .dwell)
    (hearly : p.clock.toNat < s.align.t0.toNat + 700000) : step s = .next (atBlockStep p rest s) := by
  have hnot : ¬ dwellPassed (atBlockStep p rest s) = true :=
    fun h => Nat.not_le.2 hearly ((dwellPassed_iff _).1 h)
  rw [step_block hev, blockStep_dwell (atBlockStep p rest s) hd, if_neg hnot]

theorem step_dwell_over (hev : s.env.agenda = .block p :: rest) (hd : s.align.phase = .dwell)
    (hover : s.align.t0.toNat + 700000 ≤ p.clock.toNat) :
    step s = .next (alignPhase2 (atBlockStep p rest s)) := by
  have hpassed : dwellPassed (atBlockStep p rest s) = true := (dwellPassed_iff _).2 hover
  rw [step_block hev, blockStep_dwell (atBlockStep p rest s) hd, if_pos hpassed]

end Dwell

/-- Settles O48: the comparison of the clock fails, and the dwell is BUSY. -/
theorem dwellHoldsUntilItHasPassed : Obligations.DwellHoldsUntilItHasPassed := by
  intro p rest s hd
  refine ⟨fun hev hearly => step_dwell_early hev hd hearly, fun r v hr hev => ?_⟩
  have hbusy : busy (beginStep rest s) = true := (busy_iff _).2 (.inr hd)
  rw [step_hostWrite hev, writeReg_busy hr hbusy]
  rfl

/-! ### Phase 2 (45_align.md R205 to R208) -/

section Phase2
variable {s : State}

/-- Leaving the dwell and taking the record are independent of each other. -/
theorem record_phase2Start (a : B32) (s : State) :
    record a s.env.ports.clock (phase2Start s) = leaveDwell (recorded a s) :=
  congrArg leaveDwell (record_eq_recorded a s)

theorem alignPhase2_of_readSensor_error {e : Err} (he : readSensor s.env.ports = .error e) :
    alignPhase2 s = endedWith e .a [.clock, .sensor] (leaveDwell s) := by
  simp [alignPhase2, he, raise, setResult, logPort, leaveDwell, endedWith, Env.logged]

theorem alignPhase2_of_readSensor_ok {a : B32} (ha : readSensor s.env.ports = .ok a) :
    alignPhase2 s = alignMeasure (leaveDwell (recorded a s)) := by
  rw [← record_phase2Start]
  simp [alignPhase2, ha, phase2Start]

theorem alignMeasure_of_eq (h : F32.eq (rawElectricalAngle s.sensor.angle s) s.align.eb = true) :
    alignMeasure s = fatal .alignFail s := if_pos h

theorem alignMeasure_of_ne (h : F32.eq (rawElectricalAngle s.sensor.angle s) s.align.eb = false) :
    alignMeasure s = alignSucceed (rawElectricalAngle s.sensor.angle s) s := by
  simp [alignMeasure, h]

end Phase2

/-- Phase 2 on an accepted reading is its measurement on the record (45_align.md R205). -/
theorem step_dwell_measure {p : Ports} {rest : List Event} {a : B32} {s : State}
    (hev : s.env.agenda = .block p :: rest) (hd : s.align.phase = .dwell)
    (hover : s.align.t0.toNat + 700000 ≤ p.clock.toNat) (hok : p.sensor = .ok a) (hin : inRange a = true) :
    step s = .next (alignMeasure (leaveDwell (recorded a (atBlockStep p rest s)))) := by
  have hread : readSensor (atBlockStep p rest s).env.ports = .ok a := (readSensor_ok _ _).2 ⟨hok, hin⟩
  rw [step_dwell_over hev hd hover, alignPhase2_of_readSensor_ok hread]

/-- Settles O49: the measurement differs from ALIGN_EB, and the success is written on the record. -/
theorem alignmentSucceeds : Obligations.AlignmentSucceeds := by
  intro p rest a s hev hd hover hok hin r eAfter hmoved
  have hsucceed := alignMeasure_of_ne (s := leaveDwell (recorded a (atBlockStep p rest s))) hmoved
  rw [step_dwell_measure hev hd hover hok hin, hsucceed]
  rfl

/-- Settles O50: the measurement equals ALIGN_EB, which is fatal on the record. -/
theorem unmovedAlignmentIsFatal : Obligations.UnmovedAlignmentIsFatal := by
  intro p rest a s hev hd hover hok hin r hsame
  have hfatal := alignMeasure_of_eq (s := leaveDwell (recorded a (atBlockStep p rest s))) hsame
  rw [step_dwell_measure hev hd hover hok hin, hfatal]
  rfl

/-- Settles O51: the sensor read answers its code before the record. -/
theorem failedSensorAbortsPhase2 : Obligations.FailedSensorAbortsPhase2 := by
  intro p rest s hev hd hover x
  have hraise {e : Err} (he : readSensor p = .error e) : step s = .next (endedWith e .a [.clock, .sensor] x) := by
    rw [step_dwell_over hev hd hover, alignPhase2_of_readSensor_error (s := atBlockStep p rest s) he]
    rfl
  exact ⟨fun herr => hraise (readSensor_of_err herr), fun _ hok hout => hraise (readSensor_of_not_inRange hok hout)⟩

/-! ### The aligned position (45_align.md R207) -/

/-- POLE_PAIRS 7, the angle 3.0, and as the offset the raw electrical angle 21.0 - 3 * TWO_PI32 of that angle. -/
def alignedAtThree : State :=
  { State.reset with
    motor := { State.reset.motor with polePairs := 7#32 }
    sensor := { State.reset.sensor with angle := 0x40400000#32, cont := 0x40400000#32 }
    calOffset := 0x4009A0DE#32
    status := { Status.reset with aligned := true } }

theorem alignedAtThree_safe : SafeState alignedAtThree :=
  { reset_safe with
    polePairs_legal := by decide
    continuous := by decide
    angle_bounded := by decide
    offset_absent := fun h => absurd h (by decide)
    dwell_held := fun h => absurd h (by decide) }

theorem alignedAtThree_offset :
    alignedAtThree.calOffset = rawElectricalAngle alignedAtThree.sensor.angle alignedAtThree := by decide

/-- 21.0 less the offset is rounded to just below 3 * TWO_PI32, so that it reads as just below TWO_PI32. -/
theorem electricalAngle_alignedAtThree : electricalAngle alignedAtThree = 0x40C90FDA#32 := by decide

/-- Refutes O24: at the angle 3.0 with POLE_PAIRS 7 `electrical_angle()` reads just below TWO_PI32 (log 25). -/
theorem not_alignedPositionReadsZero : ¬ Obligations.AlignedPositionReadsZero := by
  intro h
  have hzero : electricalAngle alignedAtThree = 0#32 := h alignedAtThree alignedAtThree_safe rfl alignedAtThree_offset
  rw [electricalAngle_alignedAtThree] at hzero
  exact absurd hzero (by decide)

end Sys2Proof.Machine

/-! SUPPORT. Proofs of the statements about OL_TICK (46_openloop.md): how one that its checks let through ends, and that
it neither reads nor writes what belongs to the closed loop. -/

namespace Sys2Proof.Machine

/-! ### The three ways the DRIVE of an OL_TICK ends (46_openloop.md R221; 42_transform_pwm.md R148 to R150) -/

/-- The q voltage of an OL_TICK: half the voltage limit. -/
def olVoltage (s : State) : B32 := F32.mul s.motor.voltLimit Config.half

/-- The electrical angle an OL_TICK drives at, neither normalized nor offset. -/
def olElectricalAngle (s : State) : B32 := F32.mul s.ol.angle (pp s)

/-- The percentages an OL_TICK offers. -/
def olDuties (s : State) : Duty := dutiesFor (olVoltage s) Config.zero (olElectricalAngle s) s

section OpenLoopDrive
variable {s : State}

theorem olDrive_of_accepted (hn : (olDuties s).anyNaN = false) (hall : AllPortsAccept s) :
    olDrive s = afterDrive (olVoltage s) Config.zero (olElectricalAngle s) (olDuties s) s :=
  congrArg Flow.state (drive_accepted _ _ _ _ hn hall)

theorem olDrive_of_anyNaN (hn : (olDuties s).anyNaN = true) :
    olDrive s = afterNumeric (olVoltage s) Config.zero (olElectricalAngle s) s :=
  congrArg Flow.state (drive_numeric _ _ _ _ hn)

theorem olDrive_of_refused {ch : Phase} (hn : (olDuties s).anyNaN = false)
    (hr : s.env.ports.firstRefused = some ch) :
    olDrive s = afterRefusal (olVoltage s) Config.zero (olElectricalAngle s) (olDuties s) s ch :=
  congrArg Flow.state (drive_refused _ _ _ _ ch hn hr)

end OpenLoopDrive

/-- The state an OL_TICK drives from: the clock read, the angle and its instant written (46_openloop.md R221, step 5). -/
def olIntegrated (s : State) : State := olIntegrate s.env.ports.clock (logPort .clock s)

theorem olTick_admitted {s : State} (h : OlTickAdmits s) : olTick s = olDrive (olIntegrated s) := by
  obtain ⟨hcfg, hle⟩ := h
  have hnotlt : ¬ s.env.ports.clock < s.ol.t := BitVec.not_lt.2 hle
  simp [olTick, hcfg, olClock, hnotlt, olIntegrated]

theorem exec_olTick_admitted {s : State} (h : OlTickAdmits s) :
    exec .olTick s = .next (olDrive (olIntegrated s)) := congrArg _ (olTick_admitted h)

/-- Settles O44: the three endings of the DRIVE from the integrated state. -/
theorem olTickCompletes : Obligations.OlTickCompletes := by
  intro s hadm angle r q theta p
  rw [exec_olTick_admitted hadm]
  exact ⟨fun hn hall => congrArg _ (olDrive_of_accepted (s := olIntegrated s) hn hall),
    fun hn => congrArg _ (olDrive_of_anyNaN (s := olIntegrated s) hn),
    fun hn _ hr => congrArg _ (olDrive_of_refused (s := olIntegrated s) hn hr)⟩

/-! ### OL_TICK beside the closed loop (46_openloop.md R220) -/

/-- What belongs to the closed loop replaced: the sensor state, the motion registers and CAL_OFFSET. -/
def withClosedLoop (n : Sensor) (m : Motion) (c : B32) (s : State) : State :=
  { s with sensor := n, motion := m, calOffset := c }

section ClosedLoop
variable (n : Sensor) (m : Motion) (c : B32) (s : State)

/-- Whichever way DRIVE ends, it ends that way from both states: its percentages and the ports are the same. -/
theorem drive_withClosedLoop (q d th : B32) :
    (drive q d th (withClosedLoop n m c s)).state = withClosedLoop n m c (drive q d th s).state := by
  obtain ⟨h, hall, hn⟩ | ⟨h, hn⟩ | ⟨ch, h, hr, hn⟩ := drive_cases q d th s <;> rw [h]
  · rw [drive_accepted q d th (withClosedLoop n m c s) hn hall]
    rfl
  · rw [drive_numeric q d th (withClosedLoop n m c s) hn]
    rfl
  · rw [drive_refused q d th (withClosedLoop n m c s) ch hn hr]
    cases ch <;> rfl

/-- Neither the checks nor the integration look at the closed loop. -/
theorem olTick_withClosedLoop : olTick (withClosedLoop n m c s) = withClosedLoop n m c (olTick s) := by
  cases hcfg : cfgOk s with
  | false =>
    rw [olTick_of_not_cfgOk hcfg, olTick_of_not_cfgOk (s := withClosedLoop n m c s) hcfg]
    rfl
  | true =>
    by_cases hlt : s.env.ports.clock < s.ol.t
    · rw [olTick_of_clock_lt hcfg hlt, olTick_of_clock_lt (s := withClosedLoop n m c s) hcfg hlt]
      rfl
    · have hle := BitVec.not_lt.1 hlt
      rw [olTick_admitted ⟨hcfg, hle⟩, olTick_admitted (s := withClosedLoop n m c s) ⟨hcfg, hle⟩]
      exact drive_withClosedLoop n m c (olIntegrated s) _ _ _

end ClosedLoop

/-- The only fields an OL_TICK writes. -/
theorem olTick_keeps (s : State) : ∃ o dr du st en,
    olTick s = { s with ol := o, drive := dr, duty := du, status := st, env := en } := by
  obtain ⟨e, l, h⟩ | h := olTick_outcome s
  · exact ⟨_, _, _, _, _, h⟩
  · obtain ⟨st, en, du, hdrive, -⟩ := drive_keeps (olVoltage (olIntegrated s)) Config.zero
      (olElectricalAngle (olIntegrated s)) (olIntegrated s)
    exact ⟨_, _, du, st, en, h.trans hdrive⟩

/-- Settles O45: replacing the closed loop commutes with OL_TICK, which writes none of the fields named. -/
theorem olTickIgnoresTheClosedLoop : Obligations.OlTickIgnoresTheClosedLoop := by
  intro n m c s
  refine ⟨olTick s, rfl, congrArg _ (olTick_withClosedLoop n m c s), ?_⟩
  obtain ⟨o, dr, du, st, en, h⟩ := olTick_keeps s
  rw [h]
  exact ⟨rfl, rfl, rfl, rfl, rfl, rfl, rfl, rfl, rfl, rfl⟩

end Sys2Proof.Machine

/-! SUPPORT. Proof of the statement about the fatal state (60_exceptions.md R232): a host access and a block step leave it
as it is, but for the block step of a pending SRESET, which resets. -/

namespace Sys2Proof.Machine

/-- `t` is fatal as `s` is, with its cause, its duties, its outputs, its sensor state and its motion registers
(60_exceptions.md R232). -/
def StaysFatal (s t : State) : Prop :=
  t.status.fatal = true ∧ t.status.err = s.status.err ∧ t.duty = s.duty ∧ t.env.outputs = s.env.outputs ∧
    t.sensor = s.sensor ∧ t.motion = s.motion

section FatalState
variable {s : State}

theorem StaysFatal.refl (hf : s.status.fatal = true) : StaysFatal s s := ⟨hf, rfl, rfl, rfl, rfl, rfl⟩

/-- A host write stores a parameter, accepts a word or notes a drop. -/
theorem writeReg_staysFatal (hf : s.status.fatal = true) (r : Reg) (v : Word) : StaysFatal s (writeReg r v s) := by
  obtain e | e | ⟨-, -, e⟩ | ⟨-, -, e⟩ := writeReg_cases r v s <;> rw [e] <;> exact .refl hf

theorem writeOffset_staysFatal (hf : s.status.fatal = true) (off : Nat) (v : Word) :
    StaysFatal s (writeOffset off v s) := by
  obtain e | ⟨r, -, e⟩ := writeOffset_cases off v s <;> rw [e]
  · exact .refl hf
  · exact writeReg_staysFatal hf r v

theorem hostAccess_staysFatal (hf : s.status.fatal = true) {a : HostAccess} {t : State}
    (h : hostAccess a s = .next t) : StaysFatal s t := by
  obtain ⟨addr, e⟩ | ⟨b, u, e, hu⟩ := hostAccess_cases a s <;> rw [e] at h
  · cases h
  · obtain rfl := Host.Outcome.next.inj h
    obtain rfl | ⟨off, v, rfl⟩ := hu
    · exact .refl hf
    · exact writeOffset_staysFatal hf off v

/-- In the fatal state no ALIGN dwells and no word but SRESET is pending, so a block step does nothing or resets. -/
theorem blockStep_of_fatal (hs : SafeState s) (hf : s.status.fatal = true) :
    blockStep s = .next s ∨
    (s.pending = some sresetWord ∧ blockStep s = .next (resetBlock (takePending s))) := by
  obtain ⟨-, hidle, hnone | hsreset⟩ := hs.fatal_locked hf
  · exact .inl (blockStep_idle s hidle hnone)
  · exact .inr ⟨hsreset, (blockStep_pending s _ hidle hsreset).trans (runWord_sresetWord _)⟩

end FatalState

/-- Settles O58: every step begins with an empty port log; from a fatal state only the reset input and the block step of
a pending SRESET do not keep it, and both leave what `resetBlock` leaves. -/
theorem fatalStateIsLeftOnlyByReset : Obligations.FatalStateIsLeftOnlyByReset := by
  intro s t hs hf h
  obtain ⟨-, e⟩ | ⟨a, rest, -, e⟩ | ⟨p, rest, -, e⟩ | ⟨rest, hev, e⟩ := step_cases s <;> rw [e] at h
  · obtain rfl := Host.Outcome.next.inj h
    exact ⟨rfl, .inl (StaysFatal.refl hf)⟩
  · exact ⟨hostAccess_portLog h, .inl (hostAccess_staysFatal (s := beginStep rest s) hf h)⟩
  · have hsafe : SafeState (setPorts p (beginStep rest s)) := hs.of_view rfl
    obtain e | ⟨hsreset, e⟩ := blockStep_of_fatal hsafe hf <;> obtain rfl := Host.Outcome.next.inj (e.symm.trans h)
    · exact ⟨rfl, .inl (StaysFatal.refl hf)⟩
    · exact ⟨rfl, .inr ⟨rfl, rfl, .inr hsreset⟩⟩
  · obtain rfl := Host.Outcome.next.inj h
    exact ⟨rfl, .inr ⟨rfl, rfl, .inl ⟨rest, hev⟩⟩⟩

end Sys2Proof.Machine


/-! SUPPORT. Proofs of the statements about reset (70_reset_and_hazards.md R270 to R274): what the reset input and SRESET
leave, how the window reads after it, and that the reset state is safe. -/

namespace Sys2Proof.Machine

/-! ### Reset (70_reset_and_hazards.md R270, R272, R274) -/

/-- The reset input is taken whatever the block is doing (70_reset_and_hazards.md R270). -/
theorem step_resetInput {rest : List Event} {s : State} (h : s.env.agenda = .reset :: rest) :
    step s = .next (resetBlock (beginStep rest s)) := by
  simp [step, runAgenda, h, runEvent]

/-- SRESET leaves what the reset input leaves (70_reset_and_hazards.md R274). -/
theorem exec_sreset (s : State) : exec .sreset s = .next (resetBlock s) := rfl

/-! ### The window after reset (10_state.md R20, R43, R44) -/

/-- The reset column of the register map: ID, MODE, POLE_PAIRS and ALIGN_ANGLE alone are not 0. -/
def resetColumn (off : Nat) : Word :=
  if off = 0x000 then 0x464F4301#32 else if off = 0x00C then 2#32 else if off = 0x030 then 1#32
  else if off = 0x050 then 0x4096CBE4#32 else 0#32

theorem readReg_reset (r : Reg) : readReg State.reset r = resetColumn r.offset := by
  cases r with
  | vpid f | apid f => cases f <;> decide
  | _ => decide

theorem offset_of_regAt {off : Nat} {r : Reg} (h : regAt off = some r) : r.offset = off :=
  eq_of_beq (List.find?_some (p := fun r : Reg => r.offset == off) h)

/-- At a reserved offset no register stands. -/
theorem ne_offset_of_regAt_none {off : Nat} (h : regAt off = none) (r : Reg) : off ≠ r.offset := by
  rintro rfl
  exact Option.some_ne_none r ((regAt_offset r).1.symm.trans h)

theorem resetColumn_of_reserved {off : Nat} (h : regAt off = none) : resetColumn off = 0#32 := by
  have hid : off ≠ 0x000 := ne_offset_of_regAt_none h .id
  have hmode : off ≠ 0x00C := ne_offset_of_regAt_none h .mode
  have hpolePairs : off ≠ 0x030 := ne_offset_of_regAt_none h .polePairs
  have halignAngle : off ≠ 0x050 := ne_offset_of_regAt_none h .alignAngle
  simp [resetColumn, hid, hmode, hpolePairs, halignAngle]

theorem readOffset_reset (off : Nat) : readOffset State.reset off = resetColumn off := by
  unfold readOffset
  cases h : regAt off with
  | none => exact (resetColumn_of_reserved h).symm
  | some r => exact (readReg_reset r).trans (congrArg resetColumn (offset_of_regAt h))

/-- Settles O14: the reset input and SRESET both end in `resetBlock`; the window reads register by register. -/
theorem resetInputAndSresetLeaveTheResetState : Obligations.ResetInputAndSresetLeaveTheResetState :=
  ⟨fun _ _ h => step_resetInput h, exec_sreset, fun k _ => readOffset_reset (4 * k), rfl, rfl⟩

/-- Settles O57: each clause of SafeState is a closed fact of the reset state. -/
theorem resetStateIsSafe : Obligations.ResetStateIsSafe := reset_safe

end Sys2Proof.Machine
